-- ==== Sys2Proof/Word.lean ====
section
/-! DEFINITION. The widths of 00_scope.md R6, R13 and 30_encoding.md R80: every value is unsigned
and `+` on an n-bit value is modulo 2^n. -/

namespace Sys2Proof

/-- `u8`: the control, mask, flag, data-direction and port registers (00_scope.md R6). -/
abbrev Byte := BitVec 8

/-- `u16`: the counter, the compare register and the data latch (00_scope.md R6, 10_state.md R40). -/
abbrev U16 := BitVec 16

/-- `u32`: one operation word (30_encoding.md R80). -/
abbrev Word := BitVec 32

/-- A 12-bit address of the block's data space (20_memory.md R61). -/
abbrev Addr := BitVec 12

/-- A 16-bit index into PROGRAM (10_state.md R47, 30_encoding.md R85). -/
abbrev Index := BitVec 16

/-- The program counter of a context: a 16-bit index, and above it the model's own carry bit, so that
counting past 0xFFFF is no wrap (10_state.md R47). DEDUCED (log entry 8). -/
abbrev Pc := BitVec 17

end Sys2Proof
end

