-- ==== Sys2Proof/Syntax.lean ====
section
/-! DEFINITION. The thirteen operations (30_encoding.md R86), the names of the registers
(20_memory.md R60) and the assembler's terms (30_encoding.md R91, R92). -/

namespace Sys2Proof

/-- The ten mapped bytes of 20_memory.md R60. -/
inductive Reg where
  | tcntL | tcntH | ocrL | ocrH | tccra | tccrb | timsk | tifr | ddr | port
  deriving DecidableEq, Repr

/-- The ten mapped bytes in the order of 20_memory.md R63. -/
def Reg.all : List Reg :=
  [.tcntL, .tcntH, .ocrL, .ocrH, .tccra, .tccrb, .timsk, .tifr, .ddr, .port]

/-- The two word registers, at `A_TCNT` and `A_OCR` (20_memory.md R68). -/
inductive WordReg where
  | tcnt | ocr
  deriving DecidableEq, Repr

/-- The two agents whose steps are totally ordered (00_scope.md R15). -/
inductive Agent where
  | clock | cpu
  deriving DecidableEq, Repr, Inhabited

/-- The three read-modify-write operations (40_register_access.md R104). -/
inductive RmwKind where
  | set | clear | toggle
  deriving DecidableEq, Repr

/-- A decoded read-modify-write operation, as the phase latch `Second(op, v)` holds it
(10_state.md R40). -/
structure Rmw where
  kind : RmwKind
  a : Addr
  m : Byte
  deriving DecidableEq, Repr

/-- One constructor per row of spec/opcode_table.json (30_encoding.md R86). The widths of the
fields are those of the formats B, W, R, S and J (R81 to R85), so every term has an encoding. -/
inductive Instr where
  | wr8 (a : Addr) (imm8 : Byte)
  | wr16 (a : Addr) (imm16 : U16)
  | rd8 (a : Addr)
  | rd16 (a : Addr)
  | setb (a : Addr) (m8 : Byte)
  | clrb (a : Addr) (m8 : Byte)
  | tglb (a : Addr) (m8 : Byte)
  | cli
  | sei
  | idis
  | irst
  | reti
  | jmp (target : Index)
  deriving DecidableEq, Repr

/-- The mnemonics of 30_encoding.md R86. -/
inductive Mnemonic where
  | wr8 | wr16 | rd8 | rd16 | setb | clrb | tglb | cli | sei | idis | irst | reti | jmp
  deriving DecidableEq, Repr

/-- The mnemonic of an operation. -/
def Instr.mnemonic : Instr → Mnemonic
  | .wr8 _ _ => .wr8
  | .wr16 _ _ => .wr16
  | .rd8 _ => .rd8
  | .rd16 _ => .rd16
  | .setb _ _ => .setb
  | .clrb _ _ => .clrb
  | .tglb _ _ => .tglb
  | .cli => .cli
  | .sei => .sei
  | .idis => .idis
  | .irst => .irst
  | .reti => .reti
  | .jmp _ => .jmp

/-- The operation a read-modify-write is, in the terms of the phase latch; none for the others. -/
def Instr.rmw? : Instr → Option Rmw
  | .setb a m => some ⟨.set, a, m⟩
  | .clrb a m => some ⟨.clear, a, m⟩
  | .tglb a m => some ⟨.toggle, a, m⟩
  | _ => none

/-- An immediate of the assembler (30_encoding.md R91): a number, `1<<n`, or `|` of those. -/
inductive AsmImm where
  | num (n : Nat)
  | oneShl (n : Nat)
  | or (l r : AsmImm)
  deriving DecidableEq, Repr

/-- An address operand of the assembler (30_encoding.md R91): a number or a register symbol. -/
inductive AsmAddr where
  | num (n : Nat)
  | reg (r : Reg)
  | wordReg (r : WordReg)
  deriving DecidableEq, Repr

/-- A jump target of the assembler (30_encoding.md R91): a label, a number, or `.`. -/
inductive AsmTarget where
  | num (n : Nat)
  | label (name : String)
  | here
  deriving DecidableEq, Repr

/-- An operation line of the assembler, the pseudos of 30_encoding.md R92 among them. -/
inductive AsmStmt where
  | wr8 (a : AsmAddr) (v : AsmImm)
  | wr16 (a : AsmAddr) (v : AsmImm)
  | rd8 (a : AsmAddr)
  | rd16 (a : AsmAddr)
  | setb (a : AsmAddr) (m : AsmImm)
  | clrb (a : AsmAddr) (m : AsmImm)
  | tglb (a : AsmAddr) (m : AsmImm)
  | cli
  | sei
  | idis
  | irst
  | reti
  | jmp (t : AsmTarget)
  | idle
  | clrf
  | togl
  | wr16lh (x : WordReg) (v : AsmImm)
  deriving DecidableEq, Repr

/-- One line of assembler text: an optional label, an optional operation (30_encoding.md R91). -/
structure AsmLine where
  label : Option String
  stmt : Option AsmStmt
  deriving DecidableEq, Repr

end Sys2Proof
end

