-- ==== Sys2Proof/Config.lean ====
section
/-! DEFINITION. The parameters of the model (00_scope.md R7 to R12) as plain data, and the free
values, which have no body. -/

namespace Sys2Proof

/-- The parameters of 00_scope.md R7 to R10 and R12. They are not state (10_state.md R20): the state
carries them in a field that no step writes (log entry 1), so that a statement about every state
is a statement about every choice of the parameters. -/
structure Params where
  aTcnt : Addr
  aOcr : Addr
  aTccra : Addr
  aTccrb : Addr
  aTimsk : Addr
  aTifr : Addr
  aDdr : Addr
  aPort : Addr
  /-- `OUT_BIT`: the bit of PORT and DDR that carries the output line (R8). -/
  outBit : Fin 8
  /-- `F_CLK` in Hz (R9). -/
  fClk : Nat
  /-- `REJECT_INEXACT` (R12). -/
  rejectInexact : Bool
  /-- `PROGRAM`: the operation words, indexed from 0 (R10). -/
  program : List Word
  /-- `HANDLER_ENTRY`: an index into PROGRAM, or none for `unbound` (R10). -/
  handlerEntry : Option Index
  deriving DecidableEq, Repr

/-- The defaults of 20_memory.md R60 and 00_scope.md R8, R9 and R12. PRESUMED, as the spec itself
marks them (log entry 3). PROGRAM and HANDLER_ENTRY have no default in the spec: nothing is loaded
and nothing is bound. DESIGN CHOICE (log entry 2). -/
def Params.standard : Params where
  aTcnt := 0x084
  aOcr := 0x088
  aTccra := 0x080
  aTccrb := 0x081
  aTimsk := 0x06F
  aTifr := 0x036
  aDdr := 0x024
  aPort := 0x025
  outBit := 5
  fClk := 4000000
  rejectInexact := false
  program := []
  handlerEntry := none

/-- The address of a mapped byte (20_memory.md R60): the high half of a word register is one above
its low half. -/
def Params.addrOf (p : Params) : Reg → Addr
  | .tcntL => p.aTcnt
  | .tcntH => p.aTcnt + 1
  | .ocrL => p.aOcr
  | .ocrH => p.aOcr + 1
  | .tccra => p.aTccra
  | .tccrb => p.aTccrb
  | .timsk => p.aTimsk
  | .tifr => p.aTifr
  | .ddr => p.aDdr
  | .port => p.aPort

/-- The address of a word register (20_memory.md R68). -/
def Params.wordAddrOf (p : Params) : WordReg → Addr
  | .tcnt => p.aTcnt
  | .ocr => p.aOcr

/-- FREE VALUE (log entry 5): TIFR bits 5, 2 and 0, a fresh draw on every read (20_memory.md R63),
for the n-th value drawn. -/
opaque Config.freeTifr : Nat → BitVec 3

/-- FREE VALUE (log entry 4): the agent of the next step where the state's schedule says nothing
(00_scope.md R15), for the n-th value drawn. -/
opaque Config.freeAgent : Nat → Agent

/-- FREE VALUE (log entry 6): the phase of the prescaler at reset (10_state.md R48). -/
opaque Config.resetPsc : Fin 1024

/-- FREE VALUE (log entry 13): `CYCLES_PER_OP`, which stays open (00_scope.md R11). No step uses
it. -/
opaque Config.cyclesPerOp : Nat

end Sys2Proof
end

