-- ==== Sys2Proof/WellFormed.lean ====
section
/-! DEFINITION. What well-formed parameters and well-formed assembler lines are. An operation has no
check of its own: the widths of its fields (30_encoding.md R81 to R85) are its types, so every
`Instr` is well-formed. -/

namespace Sys2Proof

/-- The ten byte addresses are distinct (00_scope.md R7). -/
def Params.addrsDistinct (p : Params) : Bool :=
  decide (Reg.all.map p.addrOf).Nodup

/-- The high halves lie in the 12-bit address space. DEDUCED from 00_scope.md R7 (log entry 9). -/
def Params.halvesInSpace (p : Params) : Bool :=
  p.aTcnt != 0xFFF && p.aOcr != 0xFFF

/-- A bound HANDLER_ENTRY is an index into PROGRAM (00_scope.md R10). -/
def Params.handlerInProgram (p : Params) : Bool :=
  match p.handlerEntry with
  | none => true
  | some h => decide (h.toNat < p.program.length)

/-- Well-formed parameters. -/
def Params.wf (p : Params) : Bool :=
  p.addrsDistinct && p.halvesInSpace && p.handlerInProgram

/-- The value of an immediate (30_encoding.md R91). -/
def AsmImm.value : AsmImm → Nat
  | .num n => n
  | .oneShl n => 1 <<< n
  | .or l r => l.value ||| r.value

/-- An immediate fits the format's width (30_encoding.md R91). -/
def AsmImm.fits (bits : Nat) (v : AsmImm) : Bool := decide (v.value < 2 ^ bits)

/-- An address number fits the 12-bit field; the word symbols TCNT and OCR stand only in word
operations (30_encoding.md R80, R91). -/
def AsmAddr.fits (word : Bool) : AsmAddr → Bool
  | .num n => decide (n < 0x1000)
  | .reg _ => true
  | .wordReg _ => word

/-- A target number fits the 16-bit field (30_encoding.md R85). -/
def AsmTarget.fits : AsmTarget → Bool
  | .num n => decide (n < 0x10000)
  | .label _ => true
  | .here => true

/-- The line is one the assembler does not reject for an operand's range (30_encoding.md R91). -/
def AsmStmt.wf : AsmStmt → Bool
  | .wr8 a v => a.fits false && v.fits 8
  | .wr16 a v => a.fits true && v.fits 16
  | .rd8 a => a.fits false
  | .rd16 a => a.fits true
  | .setb a m => a.fits false && m.fits 8
  | .clrb a m => a.fits false && m.fits 8
  | .tglb a m => a.fits false && m.fits 8
  | .cli => true
  | .sei => true
  | .idis => true
  | .irst => true
  | .reti => true
  | .jmp t => t.fits
  | .idle => true
  | .clrf => true
  | .togl => true
  | .wr16lh _ v => v.fits 16

end Sys2Proof
end

