-- ==== Sys2Proof/Decode.lean ====
section
/-! DEFINITION. The encoding of the operations (30_encoding.md): fields, decoder, encoder, the
opcode table as data, and words as bytes. -/

namespace Sys2Proof

/-- Why a word is no operation (30_encoding.md R88). -/
inductive Illegal where
  /-- op 0x0, 0xE or 0xF. -/
  | reservedOp
  /-- A must-be-zero field that is not zero. -/
  | nonzeroField
  deriving DecidableEq, Repr

/-- The field `op`, bits 31:28 (30_encoding.md R80). -/
def opField (w : Word) : BitVec 4 := w.extractLsb' 28 4

/-- The field `a`, bits 27:16 (30_encoding.md R80). -/
def aField (w : Word) : Addr := w.extractLsb' 16 12

/-- The field `k`, bits 15:0 (30_encoding.md R80). -/
def kField (w : Word) : U16 := w.extractLsb' 0 16

/-- The word with the three fields of 30_encoding.md R80. -/
def fieldsWord (op : BitVec 4) (a : Addr) (k : U16) : Word := op ++ a ++ k

/-- Format B (30_encoding.md R81): `k[15:8]` must be 0. -/
def decodeB (mk : Addr → Byte → Instr) (a : Addr) (k : U16) : Except Illegal Instr :=
  if k.extractLsb' 8 8 = 0 then .ok (mk a (k.extractLsb' 0 8)) else .error .nonzeroField

/-- Format R (30_encoding.md R83): `k` must be 0. -/
def decodeR (mk : Addr → Instr) (a : Addr) (k : U16) : Except Illegal Instr :=
  if k = 0 then .ok (mk a) else .error .nonzeroField

/-- Format S (30_encoding.md R84): `a` and `k` must be 0. -/
def decodeS (i : Instr) (a : Addr) (k : U16) : Except Illegal Instr :=
  if a = 0 ∧ k = 0 then .ok i else .error .nonzeroField

/-- Format J (30_encoding.md R85): `a` must be 0. -/
def decodeJ (a : Addr) (k : U16) : Except Illegal Instr :=
  if a = 0 then .ok (.jmp k) else .error .nonzeroField

/-- Decoding is total on every word (30_encoding.md R87); it never checks whether `a` is mapped. -/
def decode (w : Word) : Except Illegal Instr :=
  match (opField w).toNat with
  | 0x1 => decodeB .wr8 (aField w) (kField w)
  | 0x2 => .ok (.wr16 (aField w) (kField w))
  | 0x3 => decodeR .rd8 (aField w) (kField w)
  | 0x4 => decodeR .rd16 (aField w) (kField w)
  | 0x5 => decodeB .setb (aField w) (kField w)
  | 0x6 => decodeB .clrb (aField w) (kField w)
  | 0x7 => decodeB .tglb (aField w) (kField w)
  | 0x8 => decodeS .cli (aField w) (kField w)
  | 0x9 => decodeS .sei (aField w) (kField w)
  | 0xA => decodeS .idis (aField w) (kField w)
  | 0xB => decodeS .irst (aField w) (kField w)
  | 0xC => decodeS .reti (aField w) (kField w)
  | 0xD => decodeJ (aField w) (kField w)
  | _ => .error .reservedOp

/-- The word of an operation (30_encoding.md R81 to R86). -/
def encode : Instr → Word
  | .wr8 a v => fieldsWord 0x1 a (v.zeroExtend 16)
  | .wr16 a v => fieldsWord 0x2 a v
  | .rd8 a => fieldsWord 0x3 a 0
  | .rd16 a => fieldsWord 0x4 a 0
  | .setb a m => fieldsWord 0x5 a (m.zeroExtend 16)
  | .clrb a m => fieldsWord 0x6 a (m.zeroExtend 16)
  | .tglb a m => fieldsWord 0x7 a (m.zeroExtend 16)
  | .cli => fieldsWord 0x8 0 0
  | .sei => fieldsWord 0x9 0 0
  | .idis => fieldsWord 0xA 0 0
  | .irst => fieldsWord 0xB 0 0
  | .reti => fieldsWord 0xC 0 0
  | .jmp t => fieldsWord 0xD 0 t

/-- One row of the opcode map (30_encoding.md R86). -/
structure OpcodeRow where
  mnemonic : Mnemonic
  pattern : Word
  mask : Word
  deriving DecidableEq, Repr

/-- The opcode map of 30_encoding.md R86: a word selects a mnemonic exactly when
`(w & mask) = match`. -/
def opcodeTable : List OpcodeRow :=
  [⟨.wr8, 0x10000000, 0xF000FF00⟩,
   ⟨.wr16, 0x20000000, 0xF0000000⟩,
   ⟨.rd8, 0x30000000, 0xF000FFFF⟩,
   ⟨.rd16, 0x40000000, 0xF000FFFF⟩,
   ⟨.setb, 0x50000000, 0xF000FF00⟩,
   ⟨.clrb, 0x60000000, 0xF000FF00⟩,
   ⟨.tglb, 0x70000000, 0xF000FF00⟩,
   ⟨.cli, 0x80000000, 0xFFFFFFFF⟩,
   ⟨.sei, 0x90000000, 0xFFFFFFFF⟩,
   ⟨.idis, 0xA0000000, 0xFFFFFFFF⟩,
   ⟨.irst, 0xB0000000, 0xFFFFFFFF⟩,
   ⟨.reti, 0xC0000000, 0xFFFFFFFF⟩,
   ⟨.jmp, 0xD0000000, 0xFFFF0000⟩]

/-- The word matches the row (30_encoding.md R86). -/
def OpcodeRow.selects (r : OpcodeRow) (w : Word) : Bool := (w &&& r.mask) == r.pattern

/-- A stored word is four bytes, least significant byte first (30_encoding.md R98). -/
def wordBytes (w : Word) : List Byte :=
  [w.extractLsb' 0 8, w.extractLsb' 8 8, w.extractLsb' 16 8, w.extractLsb' 24 8]

/-- The word of four bytes, the least significant first (30_encoding.md R98). -/
def bytesWord (b0 b1 b2 b3 : Byte) : Word := b3 ++ b2 ++ b1 ++ b0

/-- PROGRAM as it is stored in bytes (30_encoding.md R98). -/
def programBytes (ws : List Word) : List Byte := ws.flatMap wordBytes

/-- PROGRAM read back from its bytes; none where the bytes are no whole number of words. -/
def programOfBytes : List Byte → Option (List Word)
  | [] => some []
  | b0 :: b1 :: b2 :: b3 :: rest => (programOfBytes rest).map (bytesWord b0 b1 b2 b3 :: ·)
  | _ => none

/-- What a decoder of stored bytes meets: too few bytes for a word, or a word that is illegal. -/
inductive DecodeError where
  | truncated
  | illegal (r : Illegal)
  deriving DecidableEq, Repr

/-- Decode the first operation of stored bytes and give the rest (30_encoding.md R87, R90, R98). -/
def decodeBytes : List Byte → Except DecodeError (Instr × List Byte)
  | b0 :: b1 :: b2 :: b3 :: rest =>
    match decode (bytesWord b0 b1 b2 b3) with
    | .ok i => .ok (i, rest)
    | .error r => .error (.illegal r)
  | _ => .error .truncated

/-- The word whose bits below `nbits` are those of `w`, and 0 above. -/
def tableWord (nbits w : Nat) : Word := BitVec.ofNat 32 (w % 2 ^ nbits)

/-- The operation the decoder reads from an instruction whose bits are `w`, numbered as
spec/opcode_table.json numbers them, laid out as the hardware stores it. -/
def decodeTableWord (nbits w : Nat) : Option Instr :=
  match decodeBytes (wordBytes (tableWord nbits w)) with
  | .ok (i, _) => some i
  | .error _ => none

end Sys2Proof
end

