-- ==== Sys2Proof/Machine/State.lean ====
section
/-! DEFINITION. The state of the block (10_state.md R20), the outcomes that stop an operation
(60_exceptions.md R180, R181), and the state after reset (10_state.md R48). -/

namespace Sys2Proof.Machine

/-- The fault codes of 60_exceptions.md R180. A fault of an operation or a fetch becomes the
`fault` record of the next state: the CPU agent stops and clock edges go on (10_state.md R43). Every
one is SAFE: the spec itself names it as the verdict on a form it gives no meaning. -/
inductive Fault where
  /-- F_PC_RANGE. Raised by every fetch with `c.pc ≥ length(PROGRAM)` (R100), or past the last
  16-bit index (R47; log entry 8). SAFE. -/
  | pcRange
  /-- F_ILLEGAL. Raised by every fetch of a word that decodes as Illegal (R88). SAFE. -/
  | illegal
  /-- F_UNMAPPED, with the address. Raised by RD8, RD16, WR8, WR16, SETB, CLRB and TGLB at an
  address that is not one of the ten mapped ones (R61). SAFE. -/
  | unmapped (a : Addr)
  /-- F_WIDTH, with the address. Raised by RD16 and WR16 at a mapped address that is not `A_TCNT`
  or `A_OCR` (R65, R66). SAFE. -/
  | width (a : Addr)
  /-- F_UNWRITTEN. Raised by IRST where no IDIS has run in the context (R123). SAFE. -/
  | unwritten
  /-- F_RETI_MAIN. Raised by RETI in the main context (R124). SAFE. -/
  | retiMain
  /-- F_NO_HANDLER. Raised by a dispatch with HANDLER_ENTRY unbound (R171). SAFE. -/
  | noHandler
  deriving DecidableEq, Repr

/-- The refusal codes of 60_exceptions.md R181. -/
inductive RefusalCode where
  /-- R_CONTROL. Raised by a write to TCCRA or TCCRB outside the admitted modes (R31, R32). SAFE. -/
  | control
  /-- R_SOURCE. Raised by a write to TIMSK with a 1 outside bit 1 (R33). SAFE. -/
  | source
  /-- R_NESTED. Raised by SEI, and by IRST with sv = 1, in the handler context (R121, R123). SAFE. -/
  | nested
  deriving DecidableEq, Repr

/-- Why an operation is refused. -/
inductive Refusal where
  /-- `refuse(code)` of the spec (R14, R181): the record `refused` of the next state. SAFE. -/
  | refuse (code : RefusalCode)
  /-- The model has no meaning for the instruction yet; no arm of `exec` answers it. SAFE. -/
  | notModelled (mnemonic : String)
  deriving DecidableEq, Repr

/-- The running context, which is also the handler state machine: `main` is Idle, `handler` is
Firing (10_state.md R41). -/
inductive Ctx where
  | main | handler
  deriving DecidableEq, Repr

/-- The operation phase of a context (10_state.md R40): `second` holds the decoded
read-modify-write operation and the byte its first phase read. -/
inductive Phase where
  | first
  | second (op : Rmw) (v : Byte)
  deriving DecidableEq, Repr

/-- A context record (10_state.md R40). `d` and `sv` are none while unwritten: the spec's own
value. -/
structure Context where
  pc : Pc
  ph : Phase
  d : Option U16
  sv : Option Bool
  deriving DecidableEq, Repr

/-- A context about to run its operation at `pc` afresh: nothing latched, nothing saved
(10_state.md R48, 60_exceptions.md R171). -/
def Context.fresh (pc : Pc) : Context := ⟨pc, .first, none, none⟩

/-- The record of the first fault (10_state.md R43): the code (with the address for F_UNMAPPED and
F_WIDTH), the context, the index, and the word where one was fetched. -/
structure FaultRecord where
  code : Fault
  ctx : Ctx
  pc : Pc
  word : Option Word
  deriving DecidableEq, Repr

/-- The record of the first refusal (10_state.md R43). -/
structure RefusalRecord where
  code : RefusalCode
  ctx : Ctx
  pc : Pc
  word : Word
  deriving DecidableEq, Repr

/-- One observation of the output line (10_state.md R44). -/
structure LineEvent where
  line : Bool
  driven : Bool
  deriving DecidableEq, Repr

/-- The state of the block, exactly the list of 10_state.md R20, and the model's three own fields
`cfg`, `sched` and `draws`. -/
structure State where
  /-- TCNT, the counter (R21). -/
  tcnt : U16
  /-- OCR, the compare value (R22). -/
  ocr : U16
  /-- TCCRA (R30). -/
  tccra : Byte
  /-- TCCRB (R32). -/
  tccrb : Byte
  /-- TIMSK (R33); bit 1 is OCIEA. -/
  timsk : Byte
  /-- OCFA, the pending flag (R34). -/
  ocfa : Bool
  /-- DDR (R36). -/
  ddr : Byte
  /-- PORT (R37). -/
  port : Byte
  /-- I, the global interrupt enable (R38). -/
  i : Bool
  /-- PSC, the prescaler's divider (R42). -/
  psc : Fin 1024
  /-- The running context (R41). -/
  ctx : Ctx
  /-- The main context record (R40). -/
  main : Context
  /-- The handler context record (R40). -/
  hdl : Context
  /-- The first fault (R43). -/
  fault : Option FaultRecord
  /-- The first refusal (R43). -/
  refused : Option RefusalRecord
  /-- The observation of the output line (R44). -/
  trace : List LineEvent
  /-- MODEL'S OWN (log entry 1): the parameters. No step writes them. -/
  cfg : Params
  /-- MODEL'S OWN (log entry 4): the agents of the next steps, as far as they are given. -/
  sched : List Agent
  /-- MODEL'S OWN (log entry 5): how many free values have been drawn. -/
  draws : Nat
  deriving DecidableEq, Repr

/-- The state after reset (10_state.md R48, 70_reset_and_hazards.md R200). PSC is the spec's draw
(log entry 6); nothing is loaded (log entry 2) and nothing is scheduled (log entry 4). -/
def State.reset : State where
  tcnt := 0
  ocr := 0
  tccra := 0
  tccrb := 0
  timsk := 0
  ocfa := false
  ddr := 0
  port := 0
  i := false
  psc := Config.resetPsc
  ctx := .main
  main := Context.fresh 0
  hdl := Context.fresh 0
  fault := none
  refused := none
  trace := []
  cfg := Params.standard
  sched := []
  draws := 0

end Sys2Proof.Machine
end

