-- ==== Sys2Proof/Machine/Operands.lean ====
section
/-! DEFINITION. The address map and the operand forms: which register an address names, the halves
of a word register, and the byte a read of TIFR assembles. -/

namespace Sys2Proof

/-- The mapped byte an address names, none where it is not mapped (20_memory.md R60, R61). -/
def Params.map (p : Params) (a : Addr) : Option Reg :=
  Reg.all.find? fun r => p.addrOf r == a

/-- The word register a word access names: only a low-half address does (20_memory.md R65, R68). -/
def Params.wordMap (p : Params) (a : Addr) : Option WordReg :=
  if a = p.aTcnt then some .tcnt
  else if a = p.aOcr then some .ocr
  else none

/-- The program counter that stands at an index: no carry (10_state.md R47; log entry 8). -/
def Index.toPc (i : Index) : Pc := i.zeroExtend 17

/-- The index a program counter stands at, without the carry. -/
def Pc.index (pc : Pc) : Index := pc.extractLsb' 0 16

/-- The word a program counter fetches: none at or past the end of PROGRAM, and none past the last
16-bit index, which names no word (10_state.md R47; log entry 8). -/
def Params.wordAt (p : Params) (pc : Pc) : Option Word :=
  if pc.toNat < 0x10000 then p.program[pc.toNat]? else none

/-- `OUT_BIT` of a byte (00_scope.md R8). -/
def Params.outOf (p : Params) (v : Byte) : Bool := v.getLsbD p.outBit.val

/-- The one-hot mask `1 << OUT_BIT` (00_scope.md R13). -/
def Params.outMask (p : Params) : Byte := 1#8 <<< p.outBit.val

end Sys2Proof

namespace Sys2Proof.Machine

/-- Bits 7:0 of a word register (20_memory.md R67). -/
def loByte (v : U16) : Byte := v.extractLsb' 0 8

/-- Bits 15:8 of a word register (20_memory.md R67). -/
def hiByte (v : U16) : Byte := v.extractLsb' 8 8

/-- The halves are independent cells: a byte write changes only its own (10_state.md R23). -/
def withLo (v : U16) (b : Byte) : U16 := hiByte v ++ b

/-- The halves are independent cells: a byte write changes only its own (10_state.md R23). -/
def withHi (v : U16) (b : Byte) : U16 := b ++ loByte v

/-- One bit as a field of width 1. -/
def bit (b : Bool) : BitVec 1 := BitVec.ofBool b

/-- The byte a read of TIFR assembles (10_state.md R35, 20_memory.md R63):
`{0, 0, draw, 0, 0, draw, OCFA, draw}`; the three draws are bits 2, 1 and 0 of `drawn`. -/
def tifrByte (drawn : BitVec 3) (ocfa : Bool) : Byte :=
  (0 : BitVec 2) ++ bit (drawn.getLsbD 2) ++ (0 : BitVec 2) ++ bit (drawn.getLsbD 1)
    ++ bit ocfa ++ bit (drawn.getLsbD 0)

end Sys2Proof.Machine
end

