-- ==== Sys2Proof/Machine/Flags.lean ====
section
/-! DEFINITION. The status bits and what is computed from the control bits: the admitted control
values, the clock select, the counter mode, OCFA and its clear, the interrupt request, and the
functions of the read-modify-write operations. -/

namespace Sys2Proof

/-- The function f(v, m) of a read-modify-write operation
(40_register_access.md R106, R107, R108). -/
def RmwKind.apply : RmwKind → Byte → Byte → Byte
  | .set, v, m => v ||| m
  | .clear, v, m => v &&& ~~~m
  | .toggle, v, m => v ^^^ m

end Sys2Proof

namespace Sys2Proof.Machine

/-- A value TCCRA admits (10_state.md R31). -/
def tccraAdmits (v : Byte) : Bool := v == 0

/-- A value TCCRB admits (10_state.md R32): bits 5 and 4 are 0 and CS is below 110. -/
def tccrbAdmits (v : Byte) : Bool :=
  !v.getLsbD 5 && !v.getLsbD 4 && decide ((v.extractLsb' 0 3).toNat < 6)

/-- A value TIMSK admits (10_state.md R33): no 1 outside bit 1. -/
def timskAdmits (v : Byte) : Bool := (v &&& 0xFD) == 0

/-- CS[2:0] of TCCRB (10_state.md R32). -/
def clockSelect (tccrb : Byte) : BitVec 3 := tccrb.extractLsb' 0 3

/-- The divisor of a clock select (10_state.md R32, 60_exceptions.md R151), none where the counter is
stopped. The codes 110 and 111 cannot be stored (R32); they give no tick (log entry 11). -/
def divisor (cs : BitVec 3) : Option Nat :=
  match cs.toNat with
  | 1 => some 1
  | 2 => some 8
  | 3 => some 64
  | 4 => some 256
  | 5 => some 1024
  | _ => none

/-- The counter mode `{TCCRB[4], TCCRB[3], TCCRA[1], TCCRA[0]}` (10_state.md R39). -/
def wgm (tccra tccrb : Byte) : BitVec 4 := tccrb.extractLsb' 3 2 ++ tccra.extractLsb' 0 2

/-- WGM = 0100: the counter returns to 0 on a match (10_state.md R39). -/
def State.ctc (s : State) : Bool := wgm s.tccra s.tccrb == 0b0100

/-- WGM = 0000: the counter wraps only at 0xFFFF (10_state.md R39). -/
def State.normal (s : State) : Bool := wgm s.tccra s.tccrb == 0b0000

/-- OCIEA, the compare-match interrupt enable (10_state.md R33). -/
def State.ociea (s : State) : Bool := s.timsk.getLsbD 1

/-- OCFA after a write of `v` to TIFR: a 1 in bit 1 clears it, a 0 has no effect
(10_state.md R34, R35). -/
def ocfaAfterWrite (ocfa : Bool) (v : Byte) : Bool := ocfa && !v.getLsbD 1

/-- `IRQ = OCFA ∧ OCIEA` (60_exceptions.md R165). -/
def State.irq (s : State) : Bool := s.ocfa && s.ociea

/-- DispatchDue (60_exceptions.md R166). -/
def State.dispatchDue (s : State) : Bool := s.ctx == .main && s.i && s.irq

end Sys2Proof.Machine
end

