-- ==== Sys2Proof/Machine/Ops.lean ====
section
/-! DEFINITION. The named operations every meaning is written over: the field updates, the running
context, the four register accesses (20_memory.md R63 to R66), the two phases of a
read-modify-write (40_register_access.md R104), dispatch and return (60_exceptions.md R171, R175),
and the records a fault or a refusal leaves (R180, R181). -/

namespace Sys2Proof.Machine

open Host (Outcome)

/-- What an operation answers. -/
abbrev Result := Outcome State Fault Refusal

/-! The field updates. -/

def State.setTcnt (s : State) (v : U16) : State := { s with tcnt := v }
def State.setOcr (s : State) (v : U16) : State := { s with ocr := v }
def State.setTccra (s : State) (v : Byte) : State := { s with tccra := v }
def State.setTccrb (s : State) (v : Byte) : State := { s with tccrb := v }
def State.setTimsk (s : State) (v : Byte) : State := { s with timsk := v }
def State.setOcfa (s : State) (v : Bool) : State := { s with ocfa := v }
def State.setDdr (s : State) (v : Byte) : State := { s with ddr := v }
def State.setPort (s : State) (v : Byte) : State := { s with port := v }
def State.setI (s : State) (v : Bool) : State := { s with i := v }
def State.setPsc (s : State) (v : Fin 1024) : State := { s with psc := v }
def State.setCtx (s : State) (v : Ctx) : State := { s with ctx := v }
def State.setMain (s : State) (v : Context) : State := { s with main := v }
def State.setHdl (s : State) (v : Context) : State := { s with hdl := v }
def State.setFault (s : State) (v : Option FaultRecord) : State := { s with fault := v }
def State.setRefused (s : State) (v : Option RefusalRecord) : State := { s with refused := v }
def State.setTrace (s : State) (v : List LineEvent) : State := { s with trace := v }
def State.setCfg (s : State) (v : Params) : State := { s with cfg := v }
def State.setSched (s : State) (v : List Agent) : State := { s with sched := v }
def State.setDraws (s : State) (v : Nat) : State := { s with draws := v }

/-! The running context. -/

/-- The running context record (40_register_access.md R100). -/
def State.cur (s : State) : Context :=
  match s.ctx with
  | .main => s.main
  | .handler => s.hdl

/-- Write the running context record; the other record is not touched (10_state.md R40). -/
def State.setCur (s : State) (c : Context) : State :=
  match s.ctx with
  | .main => s.setMain c
  | .handler => s.setHdl c

/-- Change the running context record. -/
def State.onCur (s : State) (f : Context → Context) : State := s.setCur (f s.cur)

/-- The phase is over: the next operation of the context starts at `pc` (10_state.md R47). -/
def Context.goto (c : Context) (pc : Pc) : Context := { c with pc := pc, ph := .first }

/-- `c.pc <- c.pc + 1`, with no wrap past 0xFFFF (10_state.md R47; log entry 8). -/
def Context.next (c : Context) : Context := c.goto (c.pc + 1)

/-- The operation completes in the running context (10_state.md R47). -/
def State.advance (s : State) : State := s.onCur Context.next

/-- `c.d <- v` in the running context (10_state.md R40). -/
def State.latch (s : State) (v : U16) : State := s.onCur fun c => { c with d := some v }

/-- The CPU agent has no step any more (10_state.md R43). -/
def State.stopped (s : State) : Bool := s.fault.isSome || s.refused.isSome

/-! The register accesses. -/

/-- The observation appended after a write of PORT (10_state.md R44). -/
def State.lineEvent (s : State) : LineEvent := ⟨s.cfg.outOf s.port, s.cfg.outOf s.ddr⟩

/-- The byte a mapped register reads as, `drawn` standing for the three draws of TIFR
(20_memory.md R63). -/
def State.regByte (s : State) (drawn : BitVec 3) : Reg → Byte
  | .tcntL => loByte s.tcnt
  | .tcntH => hiByte s.tcnt
  | .ocrL => loByte s.ocr
  | .ocrH => hiByte s.ocr
  | .tccra => s.tccra
  | .tccrb => s.tccrb
  | .timsk => s.timsk
  | .tifr => tifrByte drawn s.ocfa
  | .ddr => s.ddr
  | .port => s.port

/-- The byte read, and the state after: a read has no side effect (20_memory.md R71); only the
model's own counter of draws moves on. -/
def State.readReg (s : State) (r : Reg) : Byte × State :=
  (s.regByte (Config.freeTifr s.draws) r, s.setDraws (s.draws + 1))

/-- `RegRead8(a)` (20_memory.md R63). -/
def regRead8 (a : Addr) (s : State) : Except Fault (Byte × State) :=
  match s.cfg.map a with
  | some r => .ok (s.readReg r)
  | none => .error (.unmapped a)

/-- A write of PORT: `PORT <- v`, then the observation is appended (20_memory.md R64). -/
def State.writePort (s : State) (v : Byte) : State :=
  (s.setPort v).setTrace (s.trace ++ [(s.setPort v).lineEvent])

/-- The effect of a byte write on a mapped register, or the refusal of the value
(20_memory.md R64). -/
def State.writeReg (s : State) (r : Reg) (v : Byte) : Except RefusalCode State :=
  match r with
  | .tcntL => .ok (s.setTcnt (withLo s.tcnt v))
  | .tcntH => .ok (s.setTcnt (withHi s.tcnt v))
  | .ocrL => .ok (s.setOcr (withLo s.ocr v))
  | .ocrH => .ok (s.setOcr (withHi s.ocr v))
  | .tccra => if tccraAdmits v then .ok (s.setTccra v) else .error .control
  | .tccrb => if tccrbAdmits v then .ok (s.setTccrb v) else .error .control
  | .timsk => if timskAdmits v then .ok (s.setTimsk v) else .error .source
  | .tifr => .ok (s.setOcfa (ocfaAfterWrite s.ocfa v))
  | .ddr => .ok (s.setDdr v)
  | .port => .ok (s.writePort v)

/-- `RegWrite8(a, v)` (20_memory.md R64). -/
def regWrite8 (a : Addr) (v : Byte) (s : State) : Result :=
  match s.cfg.map a with
  | none => .fault (.unmapped a)
  | some r =>
    match s.writeReg r v with
    | .ok t => .next t
    | .error code => .refused (.refuse code)

/-- The fault of a word access at an address that names no word register
(20_memory.md R65, R66). -/
def wordFault (p : Params) (a : Addr) : Fault :=
  match p.map a with
  | some _ => .width a
  | none => .unmapped a

/-- The value of a word register. -/
def State.wordOf (s : State) : WordReg → U16
  | .tcnt => s.tcnt
  | .ocr => s.ocr

/-- `RegRead16(a)`: one indivisible event (20_memory.md R65). -/
def regRead16 (a : Addr) (s : State) : Except Fault U16 :=
  match s.cfg.wordMap a with
  | some r => .ok (s.wordOf r)
  | none => .error (wordFault s.cfg a)

/-- The effect of a word write on a word register. -/
def State.writeWord (s : State) (v : U16) : WordReg → State
  | .tcnt => s.setTcnt v
  | .ocr => s.setOcr v

/-- `RegWrite16(a, v)`: one indivisible event that writes both halves (20_memory.md R66). -/
def regWrite16 (a : Addr) (v : U16) (s : State) : Result :=
  match s.cfg.wordMap a with
  | some r => .next (s.writeWord v r)
  | none => .fault (wordFault s.cfg a)

/-! Operation phases. -/

/-- The state after, changed further; a fault or a refusal stays what it is. -/
def thenDo (r : Result) (f : State → State) : Result :=
  match r with
  | .next t => .next (f t)
  | .fault e => .fault e
  | .refused e => .refused e

/-- The first phase of a read-modify-write: read, and latch the byte; the pc stays
(40_register_access.md R104). -/
def readPhase (op : Rmw) (s : State) : Result :=
  match regRead8 op.a s with
  | .ok (v, t) => .next (t.onCur fun c => { c with ph := .second op v })
  | .error e => .fault e

/-- The second phase of a read-modify-write: write f(v, m) with all the effects and checks of
RegWrite8, and complete (40_register_access.md R104). -/
def writePhase (op : Rmw) (v : Byte) (s : State) : Result :=
  thenDo (regWrite8 op.a (op.kind.apply v op.m) s) State.advance

/-- The phase a context is in decides what a CPU step runs: `Execute(ins, c)` in `First`, the
latched write in `Second` (40_register_access.md R100; log entry 12). -/
def inPhase (first : State → Result) (s : State) : Result :=
  match s.cur.ph with
  | .first => first s
  | .second op v => writePhase op v s

/-! Dispatch and return. -/

/-- Dispatch, the Idle→Firing transition (60_exceptions.md R171): a fresh handler context at
HANDLER_ENTRY, I <- 0; `main`, OCFA and every register stay. -/
def dispatch (s : State) : Result :=
  match s.cfg.handlerEntry with
  | none => .fault .noHandler
  | some entry => .next (((s.setHdl (Context.fresh (Index.toPc entry))).setI false).setCtx .handler)

/-- ReturnFromHandler, the Firing→Idle transition (60_exceptions.md R175): I is set to 1, and main
resumes at its own pc and phase. -/
def returnFromHandler (s : State) : State := (s.setI true).setCtx .main

/-! The records of a stop. -/

/-- `raise Fault(code)` (60_exceptions.md R180): the record is set and nothing else changes. -/
def State.raiseFault (s : State) (code : Fault) (w : Option Word) : State :=
  s.setFault (some ⟨code, s.ctx, s.cur.pc, w⟩)

/-- `refuse(code)` (60_exceptions.md R181): the record is set and nothing else changes. -/
def State.markRefused (s : State) (code : RefusalCode) (w : Word) : State :=
  s.setRefused (some ⟨code, s.ctx, s.cur.pc, w⟩)

/-! Observation. -/

/-- The pin's electrical level (10_state.md R37): PORT[OUT_BIT] where the pin is driven; where it is
not, the free value the observer supplies (log entry 15). -/
def State.pinLevel (s : State) (drawn : Bool) : Bool :=
  if s.cfg.outOf s.ddr then s.cfg.outOf s.port else drawn

end Sys2Proof.Machine
end

