-- ==== Sys2Proof/Machine/Clock.lean ====
section
/-! DEFINITION. The timer unit: the tick of the counter and the edge of the system clock
(60_exceptions.md R151, R152). -/

namespace Sys2Proof.Machine

/-- The tick is the compare-match event (60_exceptions.md R152). -/
def State.matches (s : State) : Bool := s.tcnt == s.ocr

/-- A tick compares the counter with the threshold and then counts (60_exceptions.md R152): on a
match OCFA is set and, in CTC, the counter returns to 0; otherwise it counts up, modulo 2^16. -/
def tick (s : State) : State :=
  if s.matches then
    if s.ctc then (s.setOcfa true).setTcnt 0 else (s.setOcfa true).setTcnt (s.tcnt + 1)
  else s.setTcnt (s.tcnt + 1)

/-- The edge brings the prescaler to a multiple of the divisor (60_exceptions.md R151). -/
def State.edgeTicks (s : State) : Bool :=
  match divisor (clockSelect s.tccrb) with
  | none => false
  | some n => (s.psc + 1).val % n == 0

/-- One edge of the system clock (60_exceptions.md R151): PSC advances modulo 1024, and the counter
ticks where PSC is then a multiple of the divisor. -/
def clockEdge (s : State) : State :=
  if s.edgeTicks then tick (s.setPsc (s.psc + 1)) else s.setPsc (s.psc + 1)

end Sys2Proof.Machine
end

