-- ==== Sys2Proof/Machine/Access.lean ====
section
/-! DEFINITION. The register access operations (40_register_access.md): RD8, RD16, WR8, WR16, SETB,
CLRB and TGLB. -/

namespace Sys2Proof.Machine

open Host (Outcome)

/-- RD8 (40_register_access.md R101): `v <- RegRead8(a); c.d <- zext_16(v); c.pc <- c.pc + 1`. -/
def execRd8 (a : Addr) (s : State) : Outcome State Fault Refusal :=
  inPhase (fun s =>
    match regRead8 a s with
    | .ok (v, t) => .next (t.latch (v.zeroExtend 16)).advance
    | .error e => .fault e) s

/-- RD16 (40_register_access.md R102): `c.d <- RegRead16(a); c.pc <- c.pc + 1`. -/
def execRd16 (a : Addr) (s : State) : Outcome State Fault Refusal :=
  inPhase (fun s =>
    match regRead16 a s with
    | .ok v => .next (s.latch v).advance
    | .error e => .fault e) s

/-- WR8 (40_register_access.md R103): `RegWrite8(a, imm8); c.pc <- c.pc + 1`. -/
def execWr8 (a : Addr) (imm8 : Byte) (s : State) : Outcome State Fault Refusal :=
  inPhase (fun s => thenDo (regWrite8 a imm8 s) State.advance) s

/-- WR16 (40_register_access.md R105): `RegWrite16(a, imm16); c.pc <- c.pc + 1`. -/
def execWr16 (a : Addr) (imm16 : U16) (s : State) : Outcome State Fault Refusal :=
  inPhase (fun s => thenDo (regWrite16 a imm16 s) State.advance) s

/-- SETB (40_register_access.md R106): the frame of R104 with f(v, m) = v OR m. -/
def execSetb (a : Addr) (m8 : Byte) (s : State) : Outcome State Fault Refusal :=
  inPhase (readPhase ⟨.set, a, m8⟩) s

/-- CLRB (40_register_access.md R107): the frame of R104 with f(v, m) = v AND NOT m. -/
def execClrb (a : Addr) (m8 : Byte) (s : State) : Outcome State Fault Refusal :=
  inPhase (readPhase ⟨.clear, a, m8⟩) s

/-- TGLB (40_register_access.md R108): the frame of R104 with f(v, m) = v XOR m. -/
def execTglb (a : Addr) (m8 : Byte) (s : State) : Outcome State Fault Refusal :=
  inPhase (readPhase ⟨.toggle, a, m8⟩) s

end Sys2Proof.Machine
end

