-- ==== Sys2Proof/Machine/Control.lean ====
section
/-! DEFINITION. Control flow (42_control_flow.md): JMP. -/

namespace Sys2Proof.Machine

open Host (Outcome)

/-- JMP (42_control_flow.md R135): `c.pc <- t`. -/
def execJmp (target : Index) (s : State) : Outcome State Fault Refusal :=
  inPhase (fun s => .next (s.onCur fun c => c.goto (Index.toPc target))) s

end Sys2Proof.Machine
end

