-- ==== Sys2Proof/Machine/Interrupt.lean ====
section
/-! DEFINITION. The interrupt-control operations (41_interrupt_control.md): CLI, SEI, IDIS, IRST and
RETI. -/

namespace Sys2Proof.Machine

open Host (Outcome)

/-- CLI (41_interrupt_control.md R120): `I <- 0; c.pc <- c.pc + 1`. -/
def execCli (s : State) : Outcome State Fault Refusal :=
  inPhase (fun s => .next (s.setI false).advance) s

/-- SEI (41_interrupt_control.md R121): refused in the handler; else `I <- 1; c.pc <- c.pc + 1`. -/
def execSei (s : State) : Outcome State Fault Refusal :=
  inPhase (fun s =>
    match s.ctx with
    | .handler => .refused (.refuse .nested)
    | .main => .next (s.setI true).advance) s

/-- IDIS (41_interrupt_control.md R122): `c.sv <- I; I <- 0; c.pc <- c.pc + 1`. -/
def execIdis (s : State) : Outcome State Fault Refusal :=
  inPhase (fun s =>
    .next ((s.onCur fun c => { c with sv := some s.i }).setI false).advance) s

/-- IRST (41_interrupt_control.md R123): a fault where nothing was saved, a refusal where the handler
would re-enable; else `I <- c.sv; c.pc <- c.pc + 1`, and c.sv keeps its value. -/
def execIrst (s : State) : Outcome State Fault Refusal :=
  inPhase (fun s =>
    match s.cur.sv with
    | none => .fault .unwritten
    | some b =>
      if s.ctx = .handler ∧ b = true then .refused (.refuse .nested)
      else .next (s.setI b).advance) s

/-- RETI (41_interrupt_control.md R124): a fault in the main context; else ReturnFromHandler. -/
def execReti (s : State) : Outcome State Fault Refusal :=
  inPhase (fun s =>
    match s.ctx with
    | .main => .fault .retiMain
    | .handler => .next (returnFromHandler s)) s

end Sys2Proof.Machine
end

