-- ==== Sys2Proof/Machine/Dispatch.lean ====
section
/-! DEFINITION. One arm per operation of spec/opcode_table.json: `Execute(ins, c)`, or the second
phase a context is in (40_register_access.md R100). -/

namespace Sys2Proof.Machine

def exec (i : Instr) (s : State) : Host.Outcome State Fault Refusal :=
  match i with
  | .wr8 a imm8 => Sys2Proof.Machine.execWr8 a imm8 s
  | .wr16 a imm16 => Sys2Proof.Machine.execWr16 a imm16 s
  | .rd8 a => Sys2Proof.Machine.execRd8 a s
  | .rd16 a => Sys2Proof.Machine.execRd16 a s
  | .setb a m8 => Sys2Proof.Machine.execSetb a m8 s
  | .clrb a m8 => Sys2Proof.Machine.execClrb a m8 s
  | .tglb a m8 => Sys2Proof.Machine.execTglb a m8 s
  | .cli => Sys2Proof.Machine.execCli s
  | .sei => Sys2Proof.Machine.execSei s
  | .idis => Sys2Proof.Machine.execIdis s
  | .irst => Sys2Proof.Machine.execIrst s
  | .reti => Sys2Proof.Machine.execReti s
  | .jmp target => Sys2Proof.Machine.execJmp target s

end Sys2Proof.Machine
end

