-- ==== Sys2Proof/Machine/Cpu.lean ====
section
/-! DEFINITION. The CPU agent's step (40_register_access.md R100, 60_exceptions.md R170), whose turn
it is (00_scope.md R15), and the loading of a word where the next step fetches. -/

namespace Sys2Proof.Machine

open Host (Outcome)

/-- The word the running context fetches, none past the end of PROGRAM
(40_register_access.md R100). -/
def State.fetch (s : State) : Option Word := s.cfg.wordAt s.cur.pc

/-- What an operation's answer makes of the state it ran in: a fault or a refusal leaves its record
and nothing else (60_exceptions.md R180, R181; 40_register_access.md R100). -/
def settle (w : Word) (s : State) : Outcome State Fault Refusal → Outcome State Fault Refusal
  | .next t => .next t
  | .fault code => .next (s.raiseFault code (some w))
  | .refused (.refuse code) => .next (s.markRefused code w)
  | .refused r => .refused r

/-- One operation phase of the running context: fetch, decode, run
(40_register_access.md R100). -/
def cpuPhase (s : State) : Outcome State Fault Refusal :=
  match s.fetch with
  | none => .next (s.raiseFault .pcRange none)
  | some w =>
    match decode w with
    | .error _ => .next (s.raiseFault .illegal (some w))
    | .ok i => settle w s (exec i s)

/-- The dispatch as a step: with HANDLER_ENTRY unbound it leaves the record of F_NO_HANDLER, with no
word (60_exceptions.md R171, R180). -/
def dispatchStep (s : State) : Outcome State Fault Refusal :=
  match dispatch s with
  | .next t => .next t
  | .fault code => .next (s.raiseFault code none)
  | .refused r => .refused r

/-- One CPU step: the dispatch where it is due, else the next operation phase
(60_exceptions.md R170). -/
def cpuStep (s : State) : Outcome State Fault Refusal :=
  if s.dispatchDue then dispatchStep s else cpuPhase s

/-- The step of an agent. Once `fault` or `refused` is set the CPU agent has no step, and the only
step left is the clock edge (10_state.md R43, 60_exceptions.md R151; log entry 7). -/
def agentStep (who : Agent) (s : State) : Outcome State Fault Refusal :=
  match who with
  | .clock => .next (clockEdge s)
  | .cpu => if s.stopped then .next (clockEdge s) else cpuStep s

/-- Whose turn it is: the head of the schedule, or a free choice where the schedule is used up
(00_scope.md R15; log entry 4). -/
def takeTurn (s : State) : Agent × State :=
  match s.sched with
  | who :: rest => (who, s.setSched rest)
  | [] => (Config.freeAgent s.draws, s.setDraws (s.draws + 1))

/-- PROGRAM with `w` at index `pc`, illegal words standing in a gap below it. -/
def programWith (ws : List Word) (pc : Nat) (w : Word) : List Word :=
  ws.take pc ++ List.replicate (pc - ws.length) 0 ++ w :: ws.drop (pc + 1)

/-- The state in which the very next step is the CPU's and fetches `w` in the running context
(log entry 20): the word loaded, the step scheduled, no stop recorded, no phase half done, no carry
out of the index, no dispatch due. -/
def State.withWord (s : State) (w : Word) : State :=
  let i := Pc.index s.cur.pc
  let loaded := s.setCfg { s.cfg with program := programWith s.cfg.program i.toNat w }
  let ready := (loaded.setCur (s.cur.goto (Index.toPc i))).setSched (.cpu :: s.sched)
  ((ready.setFault none).setRefused none).setI (s.i && !s.dispatchDue)

end Sys2Proof.Machine
end

