-- ==== Sys2Proof/Machine/Step.lean ====
section
/-! DEFINITION. One step of the block: a clock edge, an operation phase, or a dispatch
(00_scope.md R15). -/

namespace Sys2Proof.Machine

/-- One step (00_scope.md R15): the agent whose turn it is moves. -/
def step (s : State) : Host.Outcome State Fault Refusal :=
  agentStep (takeTurn s).1 (takeTurn s).2

/-- The state with the instruction whose bits are `w` placed where the next step fetches it
(log entry 20). -/
def State.withFetchWord (s : State) (nbits w : Nat) : State :=
  s.withWord (tableWord nbits w)

end Sys2Proof.Machine
end

