-- ==== Sys2Proof/Machine/Assembler.lean ====
section
/-! DEFINITION. The assembler (30_encoding.md R91) and its pseudo-instructions (R92): reading one
line of text, and assembling lines into operation words. No step uses it. -/

namespace Sys2Proof.Machine

/-- Why the assembler rejects a line. -/
inductive AsmError where
  /-- An operand is outside its field (30_encoding.md R91). -/
  | range
  /-- A jump names a label that no line defines. -/
  | unknownLabel (name : String)
  /-- Two lines define one label (log entry 18). -/
  | duplicateLabel (name : String)
  /-- The text is no line of 30_encoding.md R91. -/
  | badText
  deriving DecidableEq, Repr

/-! Assembling. -/

/-- The address an operand names. -/
def asmAddr (p : Params) : AsmAddr → Addr
  | .num n => BitVec.ofNat 12 n
  | .reg r => p.addrOf r
  | .wordReg r => p.wordAddrOf r

/-- The operation slots of a line: WR16LH takes two, a bare label none (30_encoding.md R92). -/
def asmSlots (l : AsmLine) : Nat :=
  match l.stmt with
  | none => 0
  | some (.wr16lh _ _) => 2
  | some _ => 1

/-- The labels of a text with their values: the index of the next operation (30_encoding.md R91). -/
def asmLabels : Nat → List AsmLine → List (String × Nat)
  | _, [] => []
  | at', l :: ls =>
    match l.label with
    | some name => (name, at') :: asmLabels (at' + asmSlots l) ls
    | none => asmLabels (at' + asmSlots l) ls

/-- The index a jump target means, for the operation at index `here` (30_encoding.md R91). -/
def asmTarget (labels : List (String × Nat)) (here : Nat) : AsmTarget → Except AsmError Index
  | .num n => .ok (BitVec.ofNat 16 n)
  | .here => if here < 0x10000 then .ok (BitVec.ofNat 16 here) else .error .range
  | .label name =>
    match labels.lookup name with
    | some n => if n < 0x10000 then .ok (BitVec.ofNat 16 n) else .error .range
    | none => .error (.unknownLabel name)

/-- The operations of a line (30_encoding.md R91); the pseudos expand as R92 says. -/
def asmStmt (p : Params) (labels : List (String × Nat)) (here : Nat) (s : AsmStmt) :
    Except AsmError (List Instr) :=
  if s.wf then
    match s with
    | .wr8 a v => .ok [.wr8 (asmAddr p a) (BitVec.ofNat 8 v.value)]
    | .wr16 a v => .ok [.wr16 (asmAddr p a) (BitVec.ofNat 16 v.value)]
    | .rd8 a => .ok [.rd8 (asmAddr p a)]
    | .rd16 a => .ok [.rd16 (asmAddr p a)]
    | .setb a m => .ok [.setb (asmAddr p a) (BitVec.ofNat 8 m.value)]
    | .clrb a m => .ok [.clrb (asmAddr p a) (BitVec.ofNat 8 m.value)]
    | .tglb a m => .ok [.tglb (asmAddr p a) (BitVec.ofNat 8 m.value)]
    | .cli => .ok [.cli]
    | .sei => .ok [.sei]
    | .idis => .ok [.idis]
    | .irst => .ok [.irst]
    | .reti => .ok [.reti]
    | .jmp t => (asmTarget labels here t).map fun i => [.jmp i]
    | .idle => (asmTarget labels here .here).map fun i => [.jmp i]
    | .clrf => .ok [.wr8 p.aTifr 0x02]
    | .togl => .ok [.tglb p.aPort p.outMask]
    | .wr16lh x v =>
      .ok [.wr8 (p.wordAddrOf x) (BitVec.ofNat 8 (v.value &&& 0xFF)),
        .wr8 (p.wordAddrOf x + 1) (BitVec.ofNat 8 (v.value >>> 8))]
  else .error .range

/-- The operations of the lines from index `here` on. -/
def asmLines (p : Params) (labels : List (String × Nat)) :
    Nat → List AsmLine → Except AsmError (List Instr)
  | _, [] => .ok []
  | here, l :: ls =>
    match l.stmt with
    | none => asmLines p labels here ls
    | some s =>
      match asmStmt p labels here s, asmLines p labels (here + asmSlots l) ls with
      | .ok is, .ok rest => .ok (is ++ rest)
      | .error e, _ => .error e
      | _, .error e => .error e

/-- The first name that occurs twice. -/
def firstRepeated : List String → Option String
  | [] => none
  | n :: ns => if n ∈ ns then some n else firstRepeated ns

/-- Assemble a text into operation words (30_encoding.md R91, R92). -/
def assemble (p : Params) (ls : List AsmLine) : Except AsmError (List Word) :=
  let labels := asmLabels 0 ls
  match firstRepeated (labels.map Prod.fst) with
  | some n => .error (.duplicateLabel n)
  | none => (asmLines p labels 0 ls).map fun is => is.map encode

/-! Reading a line of text. -/

/-- A blank between words (log entry 18). -/
def isBlank (c : Char) : Bool := c == ' ' || c == '\t'

/-- Without the blanks at both ends. -/
def trimBlanks (cs : List Char) : List Char :=
  ((cs.dropWhile isBlank).reverse.dropWhile isBlank).reverse

/-- The pieces between the separators. -/
def splitOn (sep : Char) : List Char → List (List Char)
  | [] => [[]]
  | c :: cs =>
    if c == sep then [] :: splitOn sep cs
    else
      match splitOn sep cs with
      | piece :: rest => (c :: piece) :: rest
      | [] => [[c]]

/-- The value of a digit of base 16, both cases of letters (log entry 18). -/
def digitValue (c : Char) : Option Nat :=
  if '0' ≤ c ∧ c ≤ '9' then some (c.toNat - '0'.toNat)
  else if 'a' ≤ c ∧ c ≤ 'f' then some (c.toNat - 'a'.toNat + 10)
  else if 'A' ≤ c ∧ c ≤ 'F' then some (c.toNat - 'A'.toNat + 10)
  else none

/-- The value of digits of a base, after those already read. -/
def digitsValue (base : Nat) : Nat → List Char → Option Nat
  | acc, [] => some acc
  | acc, c :: cs =>
    match digitValue c with
    | some d => if d < base then digitsValue base (acc * base + d) cs else none
    | none => none

/-- A number, decimal or `0x` hexadecimal (30_encoding.md R91). -/
def readNum (cs : List Char) : Option Nat :=
  match cs with
  | [] => none
  | '0' :: 'x' :: [] => none
  | '0' :: 'x' :: ds => digitsValue 16 0 ds
  | ds => digitsValue 10 0 ds

/-- A number or `1<<n` (30_encoding.md R91). -/
def readTerm (cs : List Char) : Option AsmImm :=
  match cs with
  | '1' :: '<' :: '<' :: ds => (readNum ds).map .oneShl
  | ds => (readNum ds).map .num

/-- An immediate: terms joined by `|` (30_encoding.md R91). -/
def readImm (cs : List Char) : Option AsmImm :=
  match (splitOn '|' cs).map fun t => readTerm (trimBlanks t) with
  | [] => none
  | t :: ts => ts.foldl (fun acc t => acc.bind fun l => t.map fun r => .or l r) t

/-- An address operand: a register symbol or a number (30_encoding.md R91). -/
def readAddr (cs : List Char) : Option AsmAddr :=
  match String.ofList cs with
  | "TCNTL" => some (.reg .tcntL)
  | "TCNTH" => some (.reg .tcntH)
  | "OCRL" => some (.reg .ocrL)
  | "OCRH" => some (.reg .ocrH)
  | "TCCRA" => some (.reg .tccra)
  | "TCCRB" => some (.reg .tccrb)
  | "TIMSK" => some (.reg .timsk)
  | "TIFR" => some (.reg .tifr)
  | "DDR" => some (.reg .ddr)
  | "PORT" => some (.reg .port)
  | "TCNT" => some (.wordReg .tcnt)
  | "OCR" => some (.wordReg .ocr)
  | _ => (readNum cs).map .num

/-- A label: it starts with no digit and no dot, and holds no blank (log entry 18). -/
def readLabel (cs : List Char) : Option String :=
  match cs with
  | [] => none
  | c :: _ =>
    if c == '.' || (decide ('0' ≤ c) && decide (c ≤ '9')) || cs.any isBlank then none
    else some (String.ofList cs)

/-- A jump target: `.`, a number, or a label (30_encoding.md R91). -/
def readTarget (cs : List Char) : Option AsmTarget :=
  match cs with
  | ['.'] => some .here
  | ds =>
    match readNum ds with
    | some n => some (.num n)
    | none => (readLabel ds).map .label

/-- The word register WR16LH names (30_encoding.md R92). -/
def readWordReg (cs : List Char) : Option WordReg :=
  match String.ofList cs with
  | "TCNT" => some .tcnt
  | "OCR" => some .ocr
  | _ => none

/-- An operation of an address and an immediate. -/
def readAddrImm (mk : AsmAddr → AsmImm → AsmStmt) (a v : List Char) : Option AsmStmt :=
  (readAddr a).bind fun a => (readImm v).map fun v => mk a v

/-- An operation: the mnemonic and its operands (30_encoding.md R91, R92). -/
def readStmt (mnemonic : List Char) (operands : List (List Char)) : Option AsmStmt :=
  match String.ofList mnemonic, operands with
  | "WR8", [a, v] => readAddrImm .wr8 a v
  | "WR16", [a, v] => readAddrImm .wr16 a v
  | "RD8", [a] => (readAddr a).map .rd8
  | "RD16", [a] => (readAddr a).map .rd16
  | "SETB", [a, m] => readAddrImm .setb a m
  | "CLRB", [a, m] => readAddrImm .clrb a m
  | "TGLB", [a, m] => readAddrImm .tglb a m
  | "CLI", [] => some .cli
  | "SEI", [] => some .sei
  | "IDIS", [] => some .idis
  | "IRST", [] => some .irst
  | "RETI", [] => some .reti
  | "JMP", [t] => (readTarget t).map .jmp
  | "IDLE", [] => some .idle
  | "CLRF", [] => some .clrf
  | "TOGL", [] => some .togl
  | "WR16LH", [x, v] => (readWordReg x).bind fun x => (readImm v).map fun v => .wr16lh x v
  | _, _ => none

/-- The operation part of a line: nothing, or a mnemonic and operands separated by commas. -/
def readBody (cs : List Char) : Except AsmError (Option AsmStmt) :=
  match trimBlanks cs with
  | [] => .ok none
  | body =>
    let mnemonic := body.takeWhile fun c => !isBlank c
    let rest := trimBlanks (body.dropWhile fun c => !isBlank c)
    let operands := if rest.isEmpty then [] else (splitOn ',' rest).map trimBlanks
    match readStmt mnemonic operands with
    | some s => .ok (some s)
    | none => .error .badText

/-- One line of text: comments run from `;` to the end, a label is `name:` at the start
(30_encoding.md R91). -/
def readLine (cs : List Char) : Except AsmError AsmLine :=
  let code := cs.takeWhile (· != ';')
  let before := code.takeWhile (· != ':')
  match code.dropWhile (· != ':') with
  | [] => (readBody code).map fun s => ⟨none, s⟩
  | _ :: rest =>
    match readLabel (trimBlanks before) with
    | some name => (readBody rest).map fun s => ⟨some name, s⟩
    | none => .error .badText

end Sys2Proof.Machine
end

