-- ==== Sys2Proof/Machine/Configure.lean ====
section
/-! DEFINITION. The build-time threshold configuration (43_configuration.md R140 to R144,
60_exceptions.md R182) and the relations of ticks and edges to time (70_reset_and_hazards.md R213).
No step uses them. -/

namespace Sys2Proof.Machine

/-- The configuration errors (60_exceptions.md R182): build-time results, never run-time events. -/
inductive ConfigError where
  | zero | prescaler | inexact | underflow | overflow
  deriving DecidableEq, Repr

/-- The prescalers a clock select can give (43_configuration.md R140). -/
def legalPrescalers : List Nat := [1, 8, 64, 256, 1024]

/-- `floor(num/den + 1/2)`, round half up (43_configuration.md R140). -/
def roundHalfUp (num den : Nat) : Nat := (2 * num + den) / (2 * den)

/-- `configure_period` (43_configuration.md R140, R141), on the exact quotient
`q = (input_clock_hz * period_ms) / (1000 * prescaler)`. -/
def configurePeriod (rejectInexact : Bool) (periodMs inputClockHz prescaler : Nat) :
    Except ConfigError U16 :=
  if periodMs = 0 ∨ inputClockHz = 0 then .error .zero
  else if prescaler ∉ legalPrescalers then .error .prescaler
  else
    let num := inputClockHz * periodMs
    let den := 1000 * prescaler
    if rejectInexact = true ∧ num % den ≠ 0 then .error .inexact
    else
      let t : Int := (roundHalfUp num den : Int) - 1
      if t < 0 then .error .underflow
      else if t > 65535 then .error .overflow
      else .ok (BitVec.ofNat 16 t.toNat)

/-- The threshold for the parameters F_CLK and REJECT_INEXACT (00_scope.md R9, R12). -/
def thresholdFor (p : Params) (periodMs prescaler : Nat) : Except ConfigError U16 :=
  configurePeriod p.rejectInexact periodMs p.fClk prescaler

/-- Edges of F_CLK between consecutive matches in CTC, with threshold `t` and divisor `n`
(43_configuration.md R144). -/
def matchPeriodEdges (t : U16) (n : Nat) : Nat := (t.toNat + 1) * n

/-- Seconds between consecutive matches (43_configuration.md R144). -/
def matchPeriodSeconds (fClk : Nat) (t : U16) (n : Nat) : ℚ := (matchPeriodEdges t n : ℚ) / fClk

/-- The counter's resolution: the seconds of one tick (43_configuration.md R144). -/
def tickSeconds (fClk n : Nat) : ℚ := (n : ℚ) / fClk

end Sys2Proof.Machine
end

