-- ==== Sys2Proof/Safety.lean ====
section
/-! DEFINITION. What a good state and a good run are, in the terms the statements use: legal control
registers, the invariant every step keeps, the entry state of 70_reset_and_hazards.md R201, and the
premise NoOverrun of R214. -/

namespace Sys2Proof.Machine

/-- The control registers hold only values the block admits (10_state.md R31, R32, R33). -/
def State.legalControls (s : State) : Bool :=
  tccraAdmits s.tccra && tccrbAdmits s.tccrb && timskAdmits s.timsk

/-- A context between the phases of a read-modify-write stands at the word of that very operation
(10_state.md R40, R47). -/
def phaseFits (p : Params) (c : Context) : Bool :=
  match c.ph with
  | .first => true
  | .second op _ =>
    match p.wordAt c.pc with
    | none => false
    | some w =>
      match decode w with
      | .ok i => i.rmw? == some op
      | .error _ => false

/-- While the handler runs, I = 0 and its save bit holds no 1, so that no IRST of its own can
re-enable (60_exceptions.md R177, 41_interrupt_control.md R123). -/
def State.handlerMasked (s : State) : Bool :=
  s.ctx == .main || (!s.i && s.hdl.sv != some true)

/-- At most one of the two marks is set: the first one stops the CPU agent (10_state.md R43). -/
def State.oneMark (s : State) : Bool := s.fault.isNone || s.refused.isNone

/-- The last observation shows the line as it stands (10_state.md R44). -/
def State.traceShowsLine (s : State) : Bool :=
  match s.trace.getLast? with
  | none => true
  | some e => e.line == s.cfg.outOf s.port

/-- No program counter stands further than one past the last 16-bit index: a word past it is never
fetched, so nothing counts on from there (10_state.md R47; log entry 8). -/
def State.pcsInRange (s : State) : Bool :=
  decide (s.main.pc.toNat ≤ 0x10000) && decide (s.hdl.pc.toNat ≤ 0x10000)

/-- The invariant of the block: every step keeps it, from every state that has it. -/
structure State.Inv (s : State) : Prop where
  controls : s.legalControls = true
  mainPhase : phaseFits s.cfg s.main = true
  hdlPhase : phaseFits s.cfg s.hdl = true
  masked : s.handlerMasked = true
  oneMark : s.oneMark = true
  line : s.traceShowsLine = true
  pcs : s.pcsInRange = true

/-- The entry state of 70_reset_and_hazards.md R201: what a program entered after other code may
rely on. TCNT, OCR, OCFA, DDR, PORT, PSC and TCCRB[7:6], TCCRB[3] are free. Of the main record R201
gives the pc alone: that it is between operations, with nothing latched and nothing saved, is the
model's DESIGN CHOICE, and so is that the handler's record and the trace are free (log entry 23).
That TCCRA is 0, which R201 does not list, is DEDUCED from 10_state.md R31 (log entry 23). -/
structure State.Entry (s : State) : Prop where
  stopped : clockSelect s.tccrb = 0
  reserved : s.tccrb.getLsbD 5 = false ∧ s.tccrb.getLsbD 4 = false
  tccra : s.tccra = 0
  timsk : s.timsk = 0
  disabled : s.i = false
  idle : s.ctx = .main
  main : s.main = Context.fresh 0
  unmarked : s.fault = none ∧ s.refused = none

/-- The events of a run that NoOverrun speaks of (70_reset_and_hazards.md R214). -/
inductive RunEvent where
  | matched | dispatched | cleared
  deriving DecidableEq, Repr

/-- The byte access the next phase of the running context writes, if it is one: WR8, or the second
phase of a read-modify-write (40_register_access.md R103, R104). -/
def State.byteWritten (s : State) : Option (Addr × Byte) :=
  match s.fetch.map decode with
  | some (.ok i) =>
    match s.cur.ph, i with
    | .second op v, _ => some (op.a, op.kind.apply v op.m)
    | .first, .wr8 a v => some (a, v)
    | .first, _ => none
  | _ => none

/-- The phase about to run in the handler clears the flag (60_exceptions.md R160). -/
def State.handlerClears (s : State) : Bool :=
  s.ctx == .handler &&
    match s.byteWritten with
    | some (a, v) => s.cfg.map a == some .tifr && v.getLsbD 1
    | none => false

/-- The event the step of an agent is, if it is one (70_reset_and_hazards.md R214). -/
def State.eventOf (s : State) (who : Agent) : Option RunEvent :=
  if who = .clock ∨ s.stopped = true then
    if s.edgeTicks && s.matches then some .matched else none
  else if s.dispatchDue then some .dispatched
  else if s.handlerClears then some .cleared
  else none

/-- What of a match is still to come: its dispatch, or the handler's flag clear. -/
inductive Waiting where
  | nothing | dispatch | clear
  deriving DecidableEq, Repr

/-- The next stage, none where a match comes before the clear of the one before it. -/
def Waiting.after : Waiting → RunEvent → Option Waiting
  | .nothing, .matched => some .dispatch
  | .nothing, _ => some .nothing
  | .dispatch, .matched => none
  | .dispatch, .dispatched => some .clear
  | .dispatch, .cleared => some .dispatch
  | .clear, .matched => none
  | .clear, .dispatched => some .clear
  | .clear, .cleared => some .nothing

/-- NoOverrun on the successive states of a run (70_reset_and_hazards.md R214; log entry 21): after
each match, the dispatch and the handler's flag clear both complete before the next match. -/
def noOverrunFrom : Waiting → List State → Bool
  | _, [] => true
  | stage, s :: run =>
    match (takeTurn s).2.eventOf (takeTurn s).1 with
    | none => noOverrunFrom stage run
    | some e =>
      match stage.after e with
      | none => false
      | some next => noOverrunFrom next run

/-- NoOverrun on a run (70_reset_and_hazards.md R214). -/
def noOverrun (run : List State) : Bool := noOverrunFrom .nothing run

/-- The sufficient timed condition `5 · c < (t + 1) · N` of 70_reset_and_hazards.md R214, for `c`
edges a CPU step, threshold `t` and divisor `n`. -/
def meetsDeadline (c : Nat) (t : U16) (n : Nat) : Bool := decide (5 * c < (t.toNat + 1) * n)

/-! The terms of the statements: what a register holds, what a write may store, and frames. -/

/-- The byte of a mapped register, spelled out from 20_memory.md R60, R63 and R67; of TIFR only the
bits the spec fixes (10_state.md R35). -/
def RegHolds (s : State) : Reg → Byte → Prop
  | .tcntL, v => v = s.tcnt.extractLsb' 0 8
  | .tcntH, v => v = s.tcnt.extractLsb' 8 8
  | .ocrL, v => v = s.ocr.extractLsb' 0 8
  | .ocrH, v => v = s.ocr.extractLsb' 8 8
  | .tccra, v => v = s.tccra
  | .tccrb, v => v = s.tccrb
  | .timsk, v => v = s.timsk
  | .tifr, v => v.getLsbD 1 = s.ocfa ∧ v &&& 0xD8 = 0
  | .ddr, v => v = s.ddr
  | .port, v => v = s.port

/-- The refusal of a byte value by a register, none where it is stored (20_memory.md R64). -/
def refusalOf : Reg → Byte → Option RefusalCode
  | .tccra, v => if v ≠ 0 then some .control else none
  | .tccrb, v =>
    if v.getLsbD 5 = true ∨ v.getLsbD 4 = true ∨ 6 ≤ (v &&& 7).toNat then some .control else none
  | .timsk, v => if v &&& 0xFD ≠ 0 then some .source else none
  | _, _ => none

/-- No register, flag of a register or observation differs. -/
structure SameRegisters (s t : State) : Prop where
  tcnt : t.tcnt = s.tcnt
  ocr : t.ocr = s.ocr
  tccra : t.tccra = s.tccra
  tccrb : t.tccrb = s.tccrb
  timsk : t.timsk = s.timsk
  ocfa : t.ocfa = s.ocfa
  ddr : t.ddr = s.ddr
  port : t.port = s.port
  trace : t.trace = s.trace

/-- What no operation writes differs not: PSC, the marks, the parameters, the schedule. -/
structure SameMachine (s t : State) : Prop where
  psc : t.psc = s.psc
  fault : t.fault = s.fault
  refused : t.refused = s.refused
  cfg : t.cfg = s.cfg
  sched : t.sched = s.sched

/-- The record of the context that is not running in `s` is the same in `t`. -/
def SameOtherContext (s t : State) : Prop :=
  match s.ctx with
  | .main => t.hdl = s.hdl
  | .handler => t.main = s.main

/-- The running context goes on at `pc` in a new operation, with the save bit `sv` and the data latch
`d`; the other context is as it was. -/
structure Continues (s t : State) (pc : Pc) (d : Option U16) (sv : Option Bool) : Prop where
  ctx : t.ctx = s.ctx
  cur : t.cur = ⟨pc, .first, d, sv⟩
  other : SameOtherContext s t

/-- The byte `v` is written to the register `r` and nowhere else (20_memory.md R64): the register
holds it, or OCFA is cleared by a 1 in bit 1 for TIFR; every other byte, and each half, is as it was;
a write of PORT, and only that, appends its observation. -/
structure WroteByte (s t : State) (r : Reg) (v : Byte) : Prop where
  stored : r ≠ .tifr → RegHolds t r v
  flag : t.ocfa = if r = .tifr ∧ v.getLsbD 1 = true then false else s.ocfa
  others : ∀ r', r' ≠ r → ∀ b, RegHolds s r' b ↔ RegHolds t r' b
  trace : t.trace =
    if r = .port then s.trace ++ [⟨s.cfg.outOf v, s.cfg.outOf s.ddr⟩] else s.trace

end Sys2Proof.Machine
end

