-- ==== Sys2Proof/Certificates/Slice0/Obligations.lean ====
section
/-! DEFINITION. The statements for the provers. Each docstring names the rules of spec/ it
formalises. -/

open Sys2Proof Sys2Proof.Machine

/-! Encoding. -/

/-- 30_encoding.md R80 to R87: no operand bit is dropped, for every operation and every operand. -/
def Obligations.DecodeOfEncodeIsTheOperation : Prop :=
  ∀ i : Instr, decode (encode i) = .ok i

/-- 30_encoding.md R89: a word that decodes is the word of what it decodes to, so no two words are
one operation. -/
def Obligations.EncodeOfDecodeIsTheWord : Prop :=
  ∀ (w : Word) (i : Instr), decode w = .ok i → encode i = w

/-- 30_encoding.md R86: the opcode map; a word selects a mnemonic exactly when `(w & mask) = match`,
and no two rows match the same word. -/
def Obligations.WordSelectsExactlyItsRow : Prop :=
  let rows : List (Mnemonic × Word × Word) :=
    [(.wr8, 0x10000000, 0xF000FF00), (.wr16, 0x20000000, 0xF0000000),
      (.rd8, 0x30000000, 0xF000FFFF), (.rd16, 0x40000000, 0xF000FFFF),
      (.setb, 0x50000000, 0xF000FF00), (.clrb, 0x60000000, 0xF000FF00),
      (.tglb, 0x70000000, 0xF000FF00), (.cli, 0x80000000, 0xFFFFFFFF),
      (.sei, 0x90000000, 0xFFFFFFFF), (.idis, 0xA0000000, 0xFFFFFFFF),
      (.irst, 0xB0000000, 0xFFFFFFFF), (.reti, 0xC0000000, 0xFFFFFFFF),
      (.jmp, 0xD0000000, 0xFFFF0000)]
  (∀ w : Word, ∀ r ∈ rows,
      w &&& r.2.2 = r.2.1 ↔ ∃ i, decode w = .ok i ∧ i.mnemonic = r.1) ∧
    ∀ w : Word, ∀ r ∈ rows, ∀ r' ∈ rows,
      w &&& r.2.2 = r.2.1 → w &&& r'.2.2 = r'.2.1 → r = r'

/-- 30_encoding.md R88: the illegal words are exactly these, and fetching one raises F_ILLEGAL with
the pc at the word and nothing but `fault` changed. -/
def Obligations.IllegalWordFaults : Prop :=
  (∀ w : Word, (∃ r, decode w = .error r) ↔
      (w.extractLsb' 28 4 ∈ [0x0#4, 0xE#4, 0xF#4] ∨
        (w.extractLsb' 28 4 ∈ [0x1#4, 0x5#4, 0x6#4, 0x7#4] ∧ w.extractLsb' 8 8 ≠ 0) ∨
        (w.extractLsb' 28 4 ∈ [0x3#4, 0x4#4] ∧ w.extractLsb' 0 16 ≠ 0) ∨
        (w.extractLsb' 28 4 ∈ [0x8#4, 0x9#4, 0xA#4, 0xB#4, 0xC#4] ∧ w.extractLsb' 0 28 ≠ 0) ∨
        (w.extractLsb' 28 4 = 0xD#4 ∧ w.extractLsb' 16 12 ≠ 0))) ∧
    (∃ r, decode 0x00000000 = .error r) ∧ (∃ r, decode 0xFFFFFFFF = .error r) ∧
    ∀ (s t : State) (w : Word) (r : Illegal),
      takeTurn s = (.cpu, t) → t.stopped = false → t.dispatchDue = false →
      t.cur.pc.toNat < 0x10000 → t.cfg.program[t.cur.pc.toNat]? = some w → decode w = .error r →
      step s = .next { t with fault := some ⟨.illegal, t.ctx, t.cur.pc, some w⟩ }

/-- Sanity (30_encoding.md R81 to R85, the words of 95_test_vectors.md §2.1): a few words written
out. -/
def Obligations.WrittenOutWordsDecode : Prop :=
  decode 0x10360002 = .ok (.wr8 0x036 0x02) ∧ decode 0x20883D08 = .ok (.wr16 0x088 0x3D08) ∧
    decode 0x30850000 = .ok (.rd8 0x085) ∧ decode 0x5081000C = .ok (.setb 0x081 0x0C) ∧
    decode 0xB0000000 = .ok .irst ∧ decode 0xD000000A = .ok (.jmp 0x000A)

/-- 30_encoding.md R98: stored words are four bytes each, least significant byte first, and reading
them back gives PROGRAM. -/
def Obligations.StoredProgramReadsBack : Prop :=
  (∀ w : Word, wordBytes w =
      [w.extractLsb' 0 8, w.extractLsb' 8 8, w.extractLsb' 16 8, w.extractLsb' 24 8]) ∧
    ∀ ws : List Word, programOfBytes (programBytes ws) = some ws

/-! The step. -/

/-- 40_register_access.md R100 with 60_exceptions.md R180 and R181: where the CPU moves, nothing has
stopped it and no dispatch is due, and the word at the running pc decodes to `i`, the step is `exec`
of `i`: its next state; for a fault or a refusal, the record and no other change. The turn is the
head of the schedule, which the step takes off (model's own, log entry 4). -/
def Obligations.StepRunsTheDecodedOperation : Prop :=
  (∀ (s : State) (who : Agent) (rest : List Agent),
      s.sched = who :: rest → takeTurn s = (who, { s with sched := rest })) ∧
    ∀ (s t : State) (w : Word) (i : Instr),
      takeTurn s = (.cpu, t) → t.stopped = false → t.dispatchDue = false →
      t.cur.pc.toNat < 0x10000 → t.cfg.program[t.cur.pc.toNat]? = some w → decode w = .ok i →
      (∀ u, exec i t = .next u → step s = .next u) ∧
        (∀ f, exec i t = .fault f →
          step s = .next { t with fault := some ⟨f, t.ctx, t.cur.pc, some w⟩ }) ∧
        (∀ c, exec i t = .refused (.refuse c) →
          step s = .next { t with refused := some ⟨c, t.ctx, t.cur.pc, w⟩ })

/-- 10_state.md R47, 40_register_access.md R100: a fetch at or past the end of PROGRAM raises
F_PC_RANGE, with no word, and changes nothing else. So does a fetch past the last 16-bit index,
however long PROGRAM is, where a pc of 16 bits would wrap (DEDUCED, log entry 8). -/
def Obligations.FetchPastTheEndFaults : Prop :=
  ∀ s t : State, takeTurn s = (.cpu, t) → t.stopped = false → t.dispatchDue = false →
    (t.cfg.program.length ≤ t.cur.pc.toNat ∨ 0x10000 ≤ t.cur.pc.toNat) →
    step s = .next { t with fault := some ⟨.pcRange, t.ctx, t.cur.pc, none⟩ }

/-- 70_reset_and_hazards.md R220, 60_exceptions.md R151: a run does not end: every state has a next
state. -/
def Obligations.EveryStateHasANextStep : Prop :=
  ∀ s : State, ∃ t, step s = .next t

/-- 10_state.md R43: neither mark is ever cleared or replaced; once either is set the CPU agent has
no step, and the step is a clock edge. -/
def Obligations.StoppedCpuNeverMoves : Prop :=
  ∀ s : State, s.stopped = true →
    step s = .next (clockEdge (takeTurn s).2) ∧
      ∀ t, step s = .next t →
        t.fault = s.fault ∧ t.refused = s.refused ∧ t.main = s.main ∧ t.hdl = s.hdl ∧
          t.ctx = s.ctx ∧ t.i = s.i ∧ t.port = s.port ∧ t.trace = s.trace

/-- 00_scope.md R10, 10_state.md R20, 20_memory.md R76: no step writes a parameter; PROGRAM is
immutable. -/
def Obligations.ParametersNeverChange : Prop :=
  ∀ s t : State, step s = .next t → t.cfg = s.cfg

/-! Dispatch and return. -/

/-- 60_exceptions.md R166: DispatchDue. -/
def Obligations.DispatchDueIsTheFourConditions : Prop :=
  ∀ s : State, s.dispatchDue = true ↔
    s.ctx = .main ∧ s.i = true ∧ s.timsk.getLsbD 1 = true ∧ s.ocfa = true

/-- 60_exceptions.md R170, R171: where DispatchDue holds and no mark is set, the CPU's step is the
dispatch, whatever phase main is in: a fresh handler context at HANDLER_ENTRY, I <- 0, ctx <- Handler
and no other change; with HANDLER_ENTRY unbound, F_NO_HANDLER and no other change. -/
def Obligations.DueDispatchIsTaken : Prop :=
  ∀ s t : State, takeTurn s = (.cpu, t) → t.stopped = false → t.dispatchDue = true →
    (∀ entry, t.cfg.handlerEntry = some entry →
      step s = .next { t with hdl := ⟨entry.zeroExtend 17, .first, none, none⟩, i := false, ctx := .handler }) ∧
      (t.cfg.handlerEntry = none →
        step s = .next { t with fault := some ⟨.noHandler, .main, t.main.pc, none⟩ })

/-- 10_state.md R41: only dispatch moves Idle→Firing, and only RETI moves Firing→Idle. -/
def Obligations.OnlyDispatchAndRetiChangeTheContext : Prop :=
  ∀ s t : State, step s = .next t → t.ctx ≠ s.ctx →
    ∃ u, takeTurn s = (.cpu, u) ∧ u.stopped = false ∧
      ((s.ctx = .main ∧ u.dispatchDue = true) ∨
        (s.ctx = .handler ∧
          ∃ w, u.cfg.program[u.cur.pc.toNat]? = some w ∧ decode w = .ok .reti))

/-- 10_state.md R38: only CLI, SEI, IDIS, IRST, dispatch (0) and RETI (1) write I, and no address
reads it: no access reads another value in a state with another I. -/
def Obligations.OnlyTheseOperationsWriteI : Prop :=
  (∀ s t : State, step s = .next t → t.i ≠ s.i →
    ∃ u, takeTurn s = (.cpu, u) ∧ u.stopped = false ∧
      ((u.dispatchDue = true ∧ t.i = false) ∨
        ∃ w i, u.cfg.program[u.cur.pc.toNat]? = some w ∧ decode w = .ok i ∧
          (i ∈ [.cli, .sei, .idis, .irst] ∨ (i = .reti ∧ t.i = true)))) ∧
    ∀ (s : State) (a : Addr) (b : Bool),
      (regRead8 a { s with i := b }).map Prod.fst = (regRead8 a s).map Prod.fst ∧
        regRead16 a { s with i := b } = regRead16 a s

/-- 10_state.md R40: no step in the handler writes the main record, and the handler's record is
written only by a dispatch while main runs. -/
def Obligations.HandlerNeverWritesMain : Prop :=
  ∀ s t : State, step s = .next t →
    (s.ctx = .handler → t.main = s.main) ∧
      (s.ctx = .main → t.hdl ≠ s.hdl → t.ctx = .handler ∧ t.main = s.main)

/-! The whole-machine rules of the flag, the line and the control registers. -/

/-- 60_exceptions.md R160: the two states of OCFA and every transition: a tick with TCNT = OCR makes
it Pending, a byte write to A_TIFR with a 1 in bit 1 makes it Clear, and every other step leaves
it; a dispatch cannot occur from Clear. -/
def Obligations.FlagFollowsItsStateMachine : Prop :=
  ∀ (s t u : State) (who : Agent), step s = .next t → takeTurn s = (who, u) →
    let edge := who = .clock ∨ u.stopped = true
    let matched := edge ∧ u.edgeTicks = true ∧ u.tcnt = u.ocr
    let cleared := ¬edge ∧ u.dispatchDue = false ∧
      ∃ a v, u.byteWritten = some (a, v) ∧ u.cfg.map a = some .tifr ∧ v.getLsbD 1 = true
    (matched → t.ocfa = true) ∧ (cleared → t.ocfa = false) ∧
      (¬matched → ¬cleared → t.ocfa = s.ocfa) ∧ (u.dispatchDue = true → s.ocfa = true)

/-- 10_state.md R44 (with 60_exceptions.md R159): a CPU phase that writes a byte to A_PORT stores it
and appends exactly one observation, taken after the write; no other step changes PORT or the
trace. -/
def Obligations.LineChangesOnlyByPortWrites : Prop :=
  ∀ (s t u : State) (who : Agent), step s = .next t → takeTurn s = (who, u) →
    (∀ a v, who = .cpu → u.stopped = false → u.dispatchDue = false →
        u.byteWritten = some (a, v) → u.cfg.map a = some .port →
        t.port = v ∧ t.trace = s.trace ++
          [⟨v.getLsbD s.cfg.outBit.val, s.ddr.getLsbD s.cfg.outBit.val⟩]) ∧
      ((who = .clock ∨ u.stopped = true ∨ u.dispatchDue = true ∨ u.byteWritten = none ∨
          ∃ a v, u.byteWritten = some (a, v) ∧ u.cfg.map a ≠ some .port) →
        t.port = s.port ∧ t.trace = s.trace)

/-- 10_state.md R22, 60_exceptions.md R152, R159 and R171: hardware never writes OCR, TCCRA, TCCRB,
TIMSK or DDR: a clock edge and a dispatch leave them. -/
def Obligations.HardwareNeverWritesTheSoftwareRegisters : Prop :=
  ∀ s t : State, step s = .next t →
    ((takeTurn s).1 = .clock ∨ s.stopped = true ∨ s.dispatchDue = true) →
    t.ocr = s.ocr ∧ t.tccra = s.tccra ∧ t.tccrb = s.tccrb ∧ t.timsk = s.timsk ∧ t.ddr = s.ddr

/-! Invariants. -/

/-- Every step keeps the invariant, from every state that has it (10_state.md R31 to R33, R40, R43,
R44, R47, 60_exceptions.md R177): only admitted control values, a phase latch that fits the word at
the pc, I = 0 and no saved 1 in the handler, at most one mark, a trace that shows the line, and a pc
at most one past the last 16-bit index (log entry 8). -/
def Obligations.EveryStepKeepsTheInvariant : Prop :=
  ∀ s t : State, s.Inv → step s = .next t → t.Inv

/-- The invariant holds at reset (10_state.md R48). -/
def Obligations.InvariantHoldsAtReset : Prop := State.reset.Inv

/-- 10_state.md R48 and §9: what reset leaves; it is an entry state of 70_reset_and_hazards.md R201,
as the model reads one (log entry 23).
The register zeros are values the spec marks as general knowledge (PRESUMED, log entry 3). The empty
PROGRAM, the unbound HANDLER_ENTRY and the model's own fields are the model's choices and are not
stated; of PSC nothing is stated but its range (log entry 6). -/
def Obligations.ResetLeavesTheseValues : Prop :=
  State.reset.tcnt = 0x0000 ∧ State.reset.ocr = 0x0000 ∧ State.reset.tccra = 0x00 ∧
    State.reset.tccrb = 0x00 ∧ State.reset.timsk = 0x00 ∧ State.reset.ocfa = false ∧
    State.reset.ddr = 0x00 ∧ State.reset.port = 0x00 ∧ State.reset.i = false ∧
    State.reset.psc.val < 1024 ∧ State.reset.ctx = .main ∧
    State.reset.main = ⟨0, .first, none, none⟩ ∧ State.reset.hdl = ⟨0, .first, none, none⟩ ∧
    State.reset.fault = none ∧ State.reset.refused = none ∧ State.reset.trace = [] ∧
    State.reset.Entry

/-- The free values of TIFR and the data latch reach nothing else (20_memory.md R63, 10_state.md R35,
R45): two states that differ only in the draws, the data latches and the drawn bits of a latched TIFR
byte step to two states that differ only there. -/
def Obligations.DrawnBitsReachNoOtherState : Prop :=
  let latchSame (p : Params) (x y : Context) : Prop :=
    x.pc = y.pc ∧ x.sv = y.sv ∧
      (x.ph = y.ph ∨ ∃ op v v', x.ph = .second op v ∧ y.ph = .second op v' ∧
        p.map op.a = some .tifr ∧ v &&& 0xDA = v' &&& 0xDA)
  let same (s t : State) : Prop :=
    SameRegisters s t ∧ SameMachine s t ∧ t.i = s.i ∧ t.ctx = s.ctx ∧
      latchSame s.cfg s.main t.main ∧ latchSame s.cfg s.hdl t.hdl
  ∀ (who : Agent) (s t s' : State), same s t → agentStep who s = .next s' →
    ∃ t', agentStep who t = .next t' ∧ same s' t'

/-! Reads. -/

/-- 40_register_access.md R101: RD8 at a mapped address completes with the zero-extended byte of
RegRead8 in the data latch (of TIFR, bit 1 is OCFA, the reserved bits are 0 and the others are free);
no register, flag or observation changes. An unmapped address raises F_UNMAPPED. -/
def Obligations.Rd8LatchesTheByte : Prop :=
  ∀ (s : State) (a : Addr), s.cur.ph = .first →
    decode (0x3#4 ++ a ++ 0#16) = .ok (.rd8 a) ∧
      (∀ r, s.cfg.map a = some r →
        ∃ t v, exec (.rd8 a) s = .next t ∧ RegHolds s r v ∧
          Continues s t (s.cur.pc + 1) (some (v.zeroExtend 16)) s.cur.sv ∧
          SameRegisters s t ∧ SameMachine s t ∧ t.i = s.i) ∧
      (s.cfg.map a = none → exec (.rd8 a) s = .fault (.unmapped a))

/-- 40_register_access.md R102, 20_memory.md R65: RD16 at A_TCNT or A_OCR completes with the word in
the data latch, and nothing else changes; at any other mapped address it raises F_WIDTH, at an
unmapped one F_UNMAPPED. -/
def Obligations.Rd16LatchesTheWord : Prop :=
  ∀ (s : State) (a : Addr), s.cur.ph = .first →
    decode (0x4#4 ++ a ++ 0#16) = .ok (.rd16 a) ∧
      exec (.rd16 a) s =
        if a = s.cfg.aTcnt then .next (s.setCur ⟨s.cur.pc + 1, .first, some s.tcnt, s.cur.sv⟩)
        else if a = s.cfg.aOcr then
          .next (s.setCur ⟨s.cur.pc + 1, .first, some s.ocr, s.cur.sv⟩)
        else if s.cfg.map a ≠ none then .fault (.width a)
        else .fault (.unmapped a)

/-- 20_memory.md R61, 60_exceptions.md R180: an unmapped address faults every access operation with
F_UNMAPPED, and the second phase of a read-modify-write too. -/
def Obligations.UnmappedAddressesFault : Prop :=
  ∀ (s : State) (a : Addr), s.cfg.map a = none →
    (s.cur.ph = .first →
      exec (.rd8 a) s = .fault (.unmapped a) ∧ exec (.rd16 a) s = .fault (.unmapped a) ∧
        (∀ v, exec (.wr8 a v) s = .fault (.unmapped a)) ∧
        (∀ v, exec (.wr16 a v) s = .fault (.unmapped a)) ∧
        (∀ m, exec (.setb a m) s = .fault (.unmapped a)) ∧
        (∀ m, exec (.clrb a m) s = .fault (.unmapped a)) ∧
        ∀ m, exec (.tglb a m) s = .fault (.unmapped a)) ∧
      ∀ (i : Instr) (op : Rmw) (v : Byte), i.rmw? = some op → op.a = a →
        s.cur.ph = .second op v → exec i s = .fault (.unmapped a)

/-- 20_memory.md R60, R61, 00_scope.md R7: for well-formed parameters the ten addresses name the ten
registers, and a mapped address is one of them. -/
def Obligations.AddressMapIsTheTenBytes : Prop :=
  ∀ p : Params, p.wf = true →
    (p.map p.aTcnt = some .tcntL ∧ p.map (p.aTcnt + 1) = some .tcntH ∧
      p.map p.aOcr = some .ocrL ∧ p.map (p.aOcr + 1) = some .ocrH ∧
      p.map p.aTccra = some .tccra ∧ p.map p.aTccrb = some .tccrb ∧
      p.map p.aTimsk = some .timsk ∧ p.map p.aTifr = some .tifr ∧
      p.map p.aDdr = some .ddr ∧ p.map p.aPort = some .port) ∧
    ∀ a, p.map a = none ↔ a ∉ [p.aTcnt, p.aTcnt + 1, p.aOcr, p.aOcr + 1, p.aTccra, p.aTccrb,
      p.aTimsk, p.aTifr, p.aDdr, p.aPort]

/-! Writes. -/

/-- 40_register_access.md R103, 20_memory.md R64: WR8 writes the byte to the register and nothing
else, and completes; a value a control register does not take is refused; an unmapped address raises
F_UNMAPPED. -/
def Obligations.Wr8WritesTheByte : Prop :=
  ∀ (s : State) (a : Addr) (v : Byte), s.cur.ph = .first →
    decode (0x1#4 ++ a ++ 0#8 ++ v) = .ok (.wr8 a v) ∧
      (∀ r, s.cfg.map a = some r → refusalOf r v = none →
        ∃ t, exec (.wr8 a v) s = .next t ∧ WroteByte s t r v ∧
          Continues s t (s.cur.pc + 1) s.cur.d s.cur.sv ∧ SameMachine s t ∧ t.i = s.i) ∧
      (∀ r c, s.cfg.map a = some r → refusalOf r v = some c →
        exec (.wr8 a v) s = .refused (.refuse c)) ∧
      (s.cfg.map a = none → exec (.wr8 a v) s = .fault (.unmapped a))

/-- 10_state.md R31, R32, R33, 40_register_access.md R104: a value the control registers do not take
is refused in the second phase of a read-modify-write too, by its code. -/
def Obligations.UnadmittedRmwValuesAreRefused : Prop :=
  ∀ (s : State) (i : Instr) (op : Rmw) (b : Byte) (r : Reg) (c : RefusalCode),
    i.rmw? = some op → s.cur.ph = .second op b → s.cfg.map op.a = some r →
    refusalOf r (op.kind.apply b op.m) = some c → exec i s = .refused (.refuse c)

/-- 60_exceptions.md R161, 40_register_access.md R103: the flag clear, written with OCFA = 0, changes
only the pc; and any write of TIFR with a 0 in bit 1 changes only the pc. -/
def Obligations.FlagClearIsIdempotent : Prop :=
  ∀ (s : State) (a : Addr) (v : Byte), s.cur.ph = .first → s.cfg.map a = some .tifr →
    (s.ocfa = false ∨ v.getLsbD 1 = false) →
    exec (.wr8 a v) s = .next (s.setCur ⟨s.cur.pc + 1, .first, s.cur.d, s.cur.sv⟩)

/-- 40_register_access.md R105, 20_memory.md R66: WR16 at A_TCNT or A_OCR writes the word, every value
0 to 65535, and nothing else, and completes; at any other mapped address it raises F_WIDTH, at an
unmapped one F_UNMAPPED. -/
def Obligations.Wr16WritesTheWord : Prop :=
  ∀ (s : State) (a : Addr) (v : U16), s.cur.ph = .first →
    decode (0x2#4 ++ a ++ v) = .ok (.wr16 a v) ∧
      exec (.wr16 a v) s =
        if a = s.cfg.aTcnt then
          .next { s.setCur ⟨s.cur.pc + 1, .first, s.cur.d, s.cur.sv⟩ with tcnt := v }
        else if a = s.cfg.aOcr then
          .next { s.setCur ⟨s.cur.pc + 1, .first, s.cur.d, s.cur.sv⟩ with ocr := v }
        else if s.cfg.map a ≠ none then .fault (.width a)
        else .fault (.unmapped a)

/-- 20_memory.md R67: RegWrite16(A_X, v) is RegWrite8(A_X, v[7:0]) followed at once by
RegWrite8(A_X + 1, v[15:8]). -/
def Obligations.WordWriteIsLowThenHighByte : Prop :=
  ∀ (s : State) (a : Addr) (v : U16), s.cfg.wf = true → (a = s.cfg.aTcnt ∨ a = s.cfg.aOcr) →
    ∃ t u, regWrite8 a (v.extractLsb' 0 8) s = .next t ∧
      regWrite8 (a + 1) (v.extractLsb' 8 8) t = .next u ∧ regWrite16 a v s = .next u

/-! Read-modify-writes. -/

/-- 40_register_access.md R104, R106, R107, R108: the first phase of SETB, CLRB and TGLB at a mapped
address reads the byte and latches the operation with it; the pc stays and nothing else changes. -/
def Obligations.RmwFirstPhaseLatchesTheByte : Prop :=
  ∀ (s : State) (i : Instr) (op : Rmw) (r : Reg),
    i.rmw? = some op → s.cur.ph = .first → s.cfg.map op.a = some r →
    ∃ t v, exec i s = .next t ∧ RegHolds s r v ∧
      t.cur = ⟨s.cur.pc, .second op v, s.cur.d, s.cur.sv⟩ ∧ t.ctx = s.ctx ∧
      SameOtherContext s t ∧ SameRegisters s t ∧ SameMachine s t ∧ t.i = s.i

/-- 40_register_access.md R104, R106: the second phase of SETB completes: it writes the latched byte
with the mask's bits set, with all the effects of RegWrite8 and no other. -/
def Obligations.SetbSecondPhaseWrites : Prop :=
  ∀ (s : State) (a : Addr) (m v : Byte) (r : Reg),
    s.cur.ph = .second ⟨.set, a, m⟩ v → s.cfg.map a = some r → refusalOf r (v ||| m) = none →
    ∃ t, exec (.setb a m) s = .next t ∧ WroteByte s t r (v ||| m) ∧
      Continues s t (s.cur.pc + 1) s.cur.d s.cur.sv ∧ SameMachine s t ∧ t.i = s.i

/-- 40_register_access.md R104, R107: the second phase of CLRB completes: it writes the latched byte
with the mask's bits cleared, with all the effects of RegWrite8 and no other. -/
def Obligations.ClrbSecondPhaseWrites : Prop :=
  ∀ (s : State) (a : Addr) (m v : Byte) (r : Reg),
    s.cur.ph = .second ⟨.clear, a, m⟩ v → s.cfg.map a = some r →
    refusalOf r (v &&& ~~~m) = none →
    ∃ t, exec (.clrb a m) s = .next t ∧ WroteByte s t r (v &&& ~~~m) ∧
      Continues s t (s.cur.pc + 1) s.cur.d s.cur.sv ∧ SameMachine s t ∧ t.i = s.i

/-- 40_register_access.md R104, R108: the second phase of TGLB completes: it writes the latched byte
with the mask's bits inverted, with all the effects of RegWrite8 and no other. -/
def Obligations.TglbSecondPhaseWrites : Prop :=
  ∀ (s : State) (a : Addr) (m v : Byte) (r : Reg),
    s.cur.ph = .second ⟨.toggle, a, m⟩ v → s.cfg.map a = some r →
    refusalOf r (v ^^^ m) = none →
    ∃ t, exec (.tglb a m) s = .next t ∧ WroteByte s t r (v ^^^ m) ∧
      Continues s t (s.cur.pc + 1) s.cur.d s.cur.sv ∧ SameMachine s t ∧ t.i = s.i

/-- 40_register_access.md R106, R107, R108, 70_reset_and_hazards.md R212: both phases at TIFR with
nothing between them, from OCFA = 1: SETB clears OCFA whatever the mask; CLRB and TGLB clear it where
the mask has no bit 1, and leave it where it has. The drawn bits do not matter. -/
def Obligations.RmwOnTheFlagRegister : Prop :=
  ∀ (s : State) (a : Addr) (m : Byte),
    s.cur.ph = .first → s.cfg.map a = some .tifr → s.ocfa = true →
    (∃ t u, exec (.setb a m) s = .next t ∧ exec (.setb a m) t = .next u ∧ u.ocfa = false) ∧
      (∃ t u, exec (.clrb a m) s = .next t ∧ exec (.clrb a m) t = .next u ∧
        u.ocfa = m.getLsbD 1) ∧
      ∃ t u, exec (.tglb a m) s = .next t ∧ exec (.tglb a m) t = .next u ∧
        u.ocfa = m.getLsbD 1

/-- 40_register_access.md R108, 70_reset_and_hazards.md R221: two TGLB of one mask on PORT, with
nothing between their phases, leave PORT as it was; the trace gains the two observations. -/
def Obligations.TwoTogglesRestoreThePort : Prop :=
  ∀ (s : State) (a : Addr) (m : Byte), s.cur.ph = .first → s.cfg.map a = some .port →
    ∃ s1 s2 s3 s4, exec (.tglb a m) s = .next s1 ∧ exec (.tglb a m) s1 = .next s2 ∧
      exec (.tglb a m) s2 = .next s3 ∧ exec (.tglb a m) s3 = .next s4 ∧
      s2.port = s.port ^^^ m ∧ s4.port = s.port ∧
      s4.trace = s.trace ++
        [⟨(s.port ^^^ m).getLsbD s.cfg.outBit.val, s.ddr.getLsbD s.cfg.outBit.val⟩,
          ⟨s.port.getLsbD s.cfg.outBit.val, s.ddr.getLsbD s.cfg.outBit.val⟩]

/-! Interrupt control and control flow. -/

/-- 41_interrupt_control.md R120: CLI. Only I and the pc change; OCFA is not touched. -/
def Obligations.CliDisables : Prop :=
  decode 0x80000000 = .ok .cli ∧
    ∀ s : State, s.cur.ph = .first →
      exec .cli s =
        .next { s.setCur ⟨s.cur.pc + 1, .first, s.cur.d, s.cur.sv⟩ with i := false }

/-- 41_interrupt_control.md R121: SEI in the main context sets I, and only I and the pc change; a
pending and enabled match then makes the dispatch due at once. In the handler it is refused
R_NESTED. -/
def Obligations.SeiEnablesInMainOnly : Prop :=
  decode 0x90000000 = .ok .sei ∧
    ∀ s : State, s.cur.ph = .first →
      (s.ctx = .main → ∃ t, exec .sei s = .next t ∧
        t = { s.setCur ⟨s.cur.pc + 1, .first, s.cur.d, s.cur.sv⟩ with i := true } ∧
        (s.ocfa = true → s.timsk.getLsbD 1 = true → t.dispatchDue = true)) ∧
        (s.ctx = .handler → exec .sei s = .refused (.refuse .nested))

/-- 41_interrupt_control.md R122: IDIS saves I in the running context and clears it; nothing else
changes but the pc. -/
def Obligations.IdisSavesAndDisables : Prop :=
  decode 0xA0000000 = .ok .idis ∧
    ∀ s : State, s.cur.ph = .first →
      exec .idis s =
        .next { s.setCur ⟨s.cur.pc + 1, .first, s.cur.d, some s.i⟩ with i := false }

/-- 41_interrupt_control.md R123: IRST restores the saved bit and keeps it, and restoring 1 in main
with a match pending and enabled makes the dispatch due; a fault F_UNWRITTEN where nothing is saved;
in the handler a saved 1 is refused R_NESTED, and a handler's own IDIS cannot save it while I = 0. -/
def Obligations.IrstRestores : Prop :=
  decode 0xB0000000 = .ok .irst ∧
    ∀ s : State, s.cur.ph = .first →
      (s.cur.sv = none → exec .irst s = .fault .unwritten) ∧
        (s.i = false → ∀ t, exec .idis s = .next t → t.cur.sv = some false) ∧
        ∀ b, s.cur.sv = some b →
          (s.ctx = .handler ∧ b = true → exec .irst s = .refused (.refuse .nested)) ∧
            (¬(s.ctx = .handler ∧ b = true) →
              ∃ t, exec .irst s = .next t ∧
                t = { s.setCur ⟨s.cur.pc + 1, .first, s.cur.d, some b⟩ with i := b } ∧
                (b = true → s.ocfa = true → s.timsk.getLsbD 1 = true → t.dispatchDue = true))

/-- 41_interrupt_control.md R124, 60_exceptions.md R175: RETI in the handler sets I, gives main the
run at its own pc and phase, and changes nothing else; with OCFA and OCIEA still 1 the dispatch is
due again. In the main context it faults F_RETI_MAIN. -/
def Obligations.RetiReturnsToMain : Prop :=
  decode 0xC0000000 = .ok .reti ∧
    ∀ s : State, s.cur.ph = .first →
      (s.ctx = .handler → ∃ t, exec .reti s = .next t ∧
        t = { s with i := true, ctx := .main } ∧ t.cur = s.main ∧
        (s.ocfa = true → s.timsk.getLsbD 1 = true → t.dispatchDue = true)) ∧
        (s.ctx = .main → exec .reti s = .fault .retiMain)

/-- 42_control_flow.md R135: JMP sets the pc of the running context, any index, and changes nothing
else; a target at or past the end of PROGRAM raises F_PC_RANGE at the context's next fetch, not at
the JMP. -/
def Obligations.JmpSetsThePc : Prop :=
  ∀ (s : State) (target : Index), s.cur.ph = .first →
    decode (0xD000#16 ++ target) = .ok (.jmp target) ∧
      exec (.jmp target) s = .next (s.setCur ⟨target.zeroExtend 17, .first, s.cur.d, s.cur.sv⟩) ∧
      ∀ t u, exec (.jmp target) s = .next t → takeTurn t = (.cpu, u) → u.stopped = false →
        u.dispatchDue = false → s.cfg.program.length ≤ target.toNat →
        step t = .next { u with fault := some ⟨.pcRange, s.ctx, target.zeroExtend 17, none⟩ }

/-! Frames. -/

/-- The frame of the operations that store nothing: RD8, RD16, CLI, SEI, IDIS, IRST, RETI and JMP, in
a context that is not between phases, leave every register, OCFA, the trace and what no operation
writes; all but CLI, SEI, IDIS, IRST and RETI leave I; all but RETI leave ctx, and
no operation writes the record of the other context (20_memory.md R69, R71). -/
def Obligations.NonStoringOperationsLeaveTheRegisters : Prop :=
  ∀ (i : Instr) (s t : State), s.cur.ph = .first →
    i.mnemonic ∈ [.rd8, .rd16, .cli, .sei, .idis, .irst, .reti, .jmp] → exec i s = .next t →
    SameRegisters s t ∧ SameMachine s t ∧ SameOtherContext s t ∧
      (i.mnemonic ∈ [.rd8, .rd16, .jmp] → t.i = s.i) ∧
      (i.mnemonic ≠ .reti → t.ctx = s.ctx) ∧
      (i.mnemonic ∉ [.rd8, .rd16] → t.cur.d = s.cur.d ∨ i.mnemonic = .reti) ∧
      (i.mnemonic ∉ [.idis, .reti] → t.cur.sv = s.cur.sv)

/-- The frame of the operations that store: WR8 at `a`, WR16 at `a` (the two bytes at `a` and
`a + 1`), and the read-modify-writes at `a`, in any phase, leave every register byte whose address is
not stored to, and I, ctx, the data latch, the save bit, the other context and what no operation
writes (20_memory.md R64, R66, R69, 40_register_access.md R104). -/
def Obligations.StoringOperationsLeaveTheOtherBytes : Prop :=
  ∀ (s t : State) (i : Instr) (stored : List Addr), s.cfg.wf = true →
    ((∃ a v, i = .wr8 a v ∧ s.cur.ph = .first ∧ stored = [a]) ∨
      (∃ a v, i = .wr16 a v ∧ s.cur.ph = .first ∧ stored = [a, a + 1]) ∨
      (∃ op, i.rmw? = some op ∧ s.cur.ph = .first ∧ stored = []) ∨
      (∃ op v, i.rmw? = some op ∧ s.cur.ph = .second op v ∧ stored = [op.a])) →
    exec i s = .next t →
    (∀ a r, a ∉ stored → s.cfg.map a = some r → ∀ b, RegHolds s r b ↔ RegHolds t r b) ∧
      (s.cfg.aPort ∉ stored → t.trace = s.trace) ∧
      t.i = s.i ∧ t.ctx = s.ctx ∧ t.cur.d = s.cur.d ∧ t.cur.sv = s.cur.sv ∧
      SameOtherContext s t ∧ SameMachine s t

/-! The timer. -/

/-- 60_exceptions.md R152: the tick. -/
def Obligations.TickComparesThenCounts : Prop :=
  ∀ s : State, tick s =
    if s.tcnt = s.ocr then
      (if s.tccrb.getLsbD 4 = false ∧ s.tccrb.getLsbD 3 = true ∧ s.tccra.getLsbD 1 = false ∧
          s.tccra.getLsbD 0 = false then { s with ocfa := true, tcnt := 0 }
        else { s with ocfa := true, tcnt := s.tcnt + 1 })
    else { s with tcnt := s.tcnt + 1 }

/-- 60_exceptions.md R151: one edge, for the clock selects R151 lists; an edge is enabled in every state, a stopped one too; the
prescaler runs freely, so no CPU step moves it; with the divisor N running, the first tick comes
N − (PSC mod N) edges on, in 1 to N, and none before. -/
def Obligations.ClockEdgeDividesTheClock : Prop :=
  (∀ s : State, (s.tccrb &&& 7).toNat < 6 → clockEdge s =
      (let psc := s.psc + 1
       let cs := (s.tccrb &&& 7).toNat
       let n := if cs = 1 then 1 else if cs = 2 then 8 else if cs = 3 then 64
         else if cs = 4 then 256 else if cs = 5 then 1024 else 0
       if n ≠ 0 ∧ psc.val % n = 0 then tick { s with psc := psc } else { s with psc := psc })) ∧
    (∀ s t : State, takeTurn s = (.clock, t) → step s = .next (clockEdge t)) ∧
    (∀ s t : State, (takeTurn s).1 = .cpu → s.stopped = false → step s = .next t →
      t.psc = s.psc) ∧
    ∀ (s : State) (n : Nat), divisor (clockSelect s.tccrb) = some n →
      n - s.psc.val % n - 1 < n ∧
        (∀ k, k < n - s.psc.val % n - 1 → (clockEdge^[k] s).edgeTicks = false) ∧
        (clockEdge^[n - s.psc.val % n - 1] s).edgeTicks = true

/-- 60_exceptions.md R158, R159: an edge changes PSC, TCNT and OCFA only, and never clears OCFA. -/
def Obligations.ClockEdgeTouchesOnlyTheCounter : Prop :=
  ∀ s : State, ∃ c f, clockEdge s = { s with psc := s.psc + 1, tcnt := c, ocfa := f } ∧
    (s.ocfa = true → f = true)

/-- 60_exceptions.md R153: in CTC with OCR = t held and TCNT ≤ t, the counter runs modulo t + 1, and
the tick after n ticks is a match exactly when the counter has come to t: matches are t + 1 ticks
apart, and from TCNT = 0 the first is at tick t + 1. -/
def Obligations.CtcMatchesEveryThresholdPlusOneTicks : Prop :=
  ∀ (s : State) (n : Nat), s.ctc = true → s.tcnt.toNat ≤ s.ocr.toNat →
    (tick^[n] s).tcnt.toNat = (s.tcnt.toNat + n) % (s.ocr.toNat + 1) ∧
      ((tick^[n] s).matches = true ↔
        (s.tcnt.toNat + n) % (s.ocr.toNat + 1) = s.ocr.toNat) ∧
      (tick^[n] s).ocfa = (s.ocfa || decide (s.ocr.toNat < s.tcnt.toNat + n))

/-- 60_exceptions.md R154: in Normal mode matches occur every 65536 ticks, at the tick where TCNT = t,
whatever t is. -/
def Obligations.NormalMatchesEvery65536Ticks : Prop :=
  ∀ (s : State) (n : Nat), s.normal = true →
    (tick^[n] s).tcnt.toNat = (s.tcnt.toNat + n) % 65536 ∧
      ((tick^[n] s).matches = true ↔ (s.tcnt.toNat + n) % 65536 = s.ocr.toNat)

/-- 60_exceptions.md R155: with OCR below TCNT, in either mode, no match occurs until TCNT has wrapped
and reached OCR: 65536 − TCNT + OCR ticks, and the next tick is the match. -/
def Obligations.ThresholdBelowTheCounterWaitsForTheWrap : Prop :=
  ∀ s : State, s.ocr.toNat < s.tcnt.toNat →
    (∀ n, n < 65536 - s.tcnt.toNat + s.ocr.toNat → (tick^[n] s).matches = false) ∧
      (tick^[65536 - s.tcnt.toNat + s.ocr.toNat] s).matches = true

/-- 60_exceptions.md R156: while CS = 000 the edges change PSC alone. -/
def Obligations.StoppedCounterHolds : Prop :=
  ∀ (s : State) (n : Nat), s.tccrb &&& 7 = 0 →
    ∃ p, clockEdge^[n] s = { s with psc := p } ∧ p.val = (s.psc.val + n) % 1024

/-- 10_state.md R39: where the control registers hold admitted values, the mode is Normal or CTC, by
bit 3 of TCCRB. -/
def Obligations.OnlyNormalAndCtcOccur : Prop :=
  ∀ s : State, s.legalControls = true →
    (s.tccrb.getLsbD 3 = false → wgm s.tccra s.tccrb = 0b0000#4) ∧
      (s.tccrb.getLsbD 3 = true → wgm s.tccra s.tccrb = 0b0100#4)

/-- 10_state.md R37: a driven pin shows PORT[OUT_BIT]; an undriven one the free value of the
observer. -/
def Obligations.DrivenPinShowsThePort : Prop :=
  ∀ (s : State) (drawn : Bool),
    s.pinLevel drawn = if s.ddr.getLsbD s.cfg.outBit.val = true
      then s.port.getLsbD s.cfg.outBit.val else drawn

/-! Configuration and assembly. -/

/-- 43_configuration.md R140, R141: configure_period is the exact rational rounding, half up, with
its five errors in order, never truncated or wrapped; a non-integer quotient is rejected only where
REJECT_INEXACT is set, and the default is that it is not. -/
def Obligations.ConfigurePeriodIsTheExactRounding : Prop :=
  Params.standard.rejectInexact = false ∧
  ∀ (reject : Bool) (periodMs hz prescaler : Nat),
    configurePeriod reject periodMs hz prescaler =
      if periodMs = 0 ∨ hz = 0 then .error .zero
      else if prescaler ∉ [1, 8, 64, 256, 1024] then .error .prescaler
      else
        let q : ℚ := (hz * periodMs : ℚ) / (1000 * prescaler)
        let t : ℤ := ⌊q + 1 / 2⌋ - 1
        if reject = true ∧ (⌊q⌋ : ℚ) ≠ q then .error .inexact
        else if t < 0 then .error .underflow
        else if 65535 < t then .error .overflow
        else .ok (BitVec.ofInt 16 t)

/-- 43_configuration.md R144: where the quotient is an integer, the match period in CTC is exactly
the requested period. -/
def Obligations.ExactQuotientGivesTheExactPeriod : Prop :=
  ∀ (reject : Bool) (periodMs hz prescaler : Nat) (t : U16),
    configurePeriod reject periodMs hz prescaler = .ok t → 1000 * prescaler ∣ hz * periodMs →
    matchPeriodSeconds hz t prescaler = (periodMs : ℚ) / 1000

/-- 43_configuration.md R143: the literal configuration. -/
def Obligations.LiteralConfigurationGives15624 : Prop :=
  thresholdFor Params.standard 1000 256 = .ok 0x3D08 ∧
    (∀ reject, configurePeriod reject 1000 4000000 256 = .ok (15624 : U16)) ∧
    4000000 * 1000 / (1000 * 256) = 15625 ∧ 4000000 / 256 - 1 = 15624

/-- 30_encoding.md R91, R92: the assembler rejects an operand outside its field, expands each pseudo
as the table says, and every word it gives decodes. -/
def Obligations.AssemblerExpandsAndRejects : Prop :=
  (∀ (p : Params) (labels : List (String × Nat)) (here : Nat) (st : AsmStmt),
      st.wf = false → asmStmt p labels here st = .error .range) ∧
    (∀ (p : Params) (labels : List (String × Nat)) (here : Nat), here < 0x10000 →
      asmStmt p labels here .idle = .ok [.jmp (BitVec.ofNat 16 here)] ∧
        asmStmt p labels here .clrf = .ok [.wr8 p.aTifr 0x02] ∧
        asmStmt p labels here .togl = .ok [.tglb p.aPort (1#8 <<< p.outBit.val)] ∧
        ∀ v : AsmImm, v.value < 65536 →
          asmStmt p labels here (.wr16lh .ocr v) =
            .ok [.wr8 p.aOcr (BitVec.ofNat 8 (v.value &&& 0xFF)),
              .wr8 (p.aOcr + 1) (BitVec.ofNat 8 (v.value >>> 8))] ∧
            asmStmt p labels here (.wr16lh .tcnt v) =
              .ok [.wr8 p.aTcnt (BitVec.ofNat 8 (v.value &&& 0xFF)),
                .wr8 (p.aTcnt + 1) (BitVec.ofNat 8 (v.value >>> 8))]) ∧
    ∀ (p : Params) (ls : List AsmLine) (ws : List Word), assemble p ls = .ok ws →
      ws.length = (ls.map asmSlots).sum ∧ ∀ w ∈ ws, ∃ i, decode w = .ok i

/-! The program counter. -/

/-- 10_state.md R47: the index an operation leaves its context at, with no wrap (DEDUCED for index
0xFFFF, log entry 8). JMP sets it; RETI and the first phase of a read-modify-write leave it; every
other completion counts it up by 1, from 0xFFFF to 0x10000. So over a step the main index falls only
by a JMP of main, and the handler's only by a JMP of the handler or by a dispatch. -/
def Obligations.IndexCountsUpAndNeverWraps : Prop :=
  (∀ (i : Instr) (s t : State), exec i s = .next t → s.cur.pc.toNat < 0x10000 →
    let c := match s.ctx with
      | .main => t.main
      | .handler => t.hdl
    (∀ target, i = .jmp target → s.cur.ph = .first → c.pc.toNat = target.toNat) ∧
      (i = .reti ∨ i.rmw? ≠ none → s.cur.ph = .first → c.pc = s.cur.pc) ∧
      (i.mnemonic ∉ [.jmp, .reti, .setb, .clrb, .tglb] ∨ s.cur.ph ≠ .first →
        c.pc.toNat = s.cur.pc.toNat + 1)) ∧
    ∀ s t : State, step s = .next t →
      let jumps (who : Ctx) : Prop := ∃ u w target, takeTurn s = (.cpu, u) ∧ u.stopped = false ∧
        u.ctx = who ∧ u.cfg.program[u.cur.pc.toNat]? = some w ∧ decode w = .ok (.jmp target)
      (t.main.pc.toNat < s.main.pc.toNat → jumps .main) ∧
        (t.hdl.pc.toNat < s.hdl.pc.toNat → jumps .handler ∨ (s.ctx = .main ∧ t.ctx = .handler))
end

