-- ==== Sys2Proof/Laws/State.lean ====
section
/-! SUPPORT. The small lemmas of the state: one per field per update, true by rfl, so that no proof
unfolds a record update; and those of the running context. -/

namespace Sys2Proof.Machine

/-! The update of `tcnt`. -/

section
variable (s : State) (v : U16)
@[simp] theorem setTcnt_tcnt : (s.setTcnt v).tcnt = v := rfl
@[simp] theorem setTcnt_ocr : (s.setTcnt v).ocr = s.ocr := rfl
@[simp] theorem setTcnt_tccra : (s.setTcnt v).tccra = s.tccra := rfl
@[simp] theorem setTcnt_tccrb : (s.setTcnt v).tccrb = s.tccrb := rfl
@[simp] theorem setTcnt_timsk : (s.setTcnt v).timsk = s.timsk := rfl
@[simp] theorem setTcnt_ocfa : (s.setTcnt v).ocfa = s.ocfa := rfl
@[simp] theorem setTcnt_ddr : (s.setTcnt v).ddr = s.ddr := rfl
@[simp] theorem setTcnt_port : (s.setTcnt v).port = s.port := rfl
@[simp] theorem setTcnt_i : (s.setTcnt v).i = s.i := rfl
@[simp] theorem setTcnt_psc : (s.setTcnt v).psc = s.psc := rfl
@[simp] theorem setTcnt_ctx : (s.setTcnt v).ctx = s.ctx := rfl
@[simp] theorem setTcnt_main : (s.setTcnt v).main = s.main := rfl
@[simp] theorem setTcnt_hdl : (s.setTcnt v).hdl = s.hdl := rfl
@[simp] theorem setTcnt_fault : (s.setTcnt v).fault = s.fault := rfl
@[simp] theorem setTcnt_refused : (s.setTcnt v).refused = s.refused := rfl
@[simp] theorem setTcnt_trace : (s.setTcnt v).trace = s.trace := rfl
@[simp] theorem setTcnt_cfg : (s.setTcnt v).cfg = s.cfg := rfl
@[simp] theorem setTcnt_sched : (s.setTcnt v).sched = s.sched := rfl
@[simp] theorem setTcnt_draws : (s.setTcnt v).draws = s.draws := rfl
end

/-! The update of `ocr`. -/

section
variable (s : State) (v : U16)
@[simp] theorem setOcr_tcnt : (s.setOcr v).tcnt = s.tcnt := rfl
@[simp] theorem setOcr_ocr : (s.setOcr v).ocr = v := rfl
@[simp] theorem setOcr_tccra : (s.setOcr v).tccra = s.tccra := rfl
@[simp] theorem setOcr_tccrb : (s.setOcr v).tccrb = s.tccrb := rfl
@[simp] theorem setOcr_timsk : (s.setOcr v).timsk = s.timsk := rfl
@[simp] theorem setOcr_ocfa : (s.setOcr v).ocfa = s.ocfa := rfl
@[simp] theorem setOcr_ddr : (s.setOcr v).ddr = s.ddr := rfl
@[simp] theorem setOcr_port : (s.setOcr v).port = s.port := rfl
@[simp] theorem setOcr_i : (s.setOcr v).i = s.i := rfl
@[simp] theorem setOcr_psc : (s.setOcr v).psc = s.psc := rfl
@[simp] theorem setOcr_ctx : (s.setOcr v).ctx = s.ctx := rfl
@[simp] theorem setOcr_main : (s.setOcr v).main = s.main := rfl
@[simp] theorem setOcr_hdl : (s.setOcr v).hdl = s.hdl := rfl
@[simp] theorem setOcr_fault : (s.setOcr v).fault = s.fault := rfl
@[simp] theorem setOcr_refused : (s.setOcr v).refused = s.refused := rfl
@[simp] theorem setOcr_trace : (s.setOcr v).trace = s.trace := rfl
@[simp] theorem setOcr_cfg : (s.setOcr v).cfg = s.cfg := rfl
@[simp] theorem setOcr_sched : (s.setOcr v).sched = s.sched := rfl
@[simp] theorem setOcr_draws : (s.setOcr v).draws = s.draws := rfl
end

/-! The update of `tccra`. -/

section
variable (s : State) (v : Byte)
@[simp] theorem setTccra_tcnt : (s.setTccra v).tcnt = s.tcnt := rfl
@[simp] theorem setTccra_ocr : (s.setTccra v).ocr = s.ocr := rfl
@[simp] theorem setTccra_tccra : (s.setTccra v).tccra = v := rfl
@[simp] theorem setTccra_tccrb : (s.setTccra v).tccrb = s.tccrb := rfl
@[simp] theorem setTccra_timsk : (s.setTccra v).timsk = s.timsk := rfl
@[simp] theorem setTccra_ocfa : (s.setTccra v).ocfa = s.ocfa := rfl
@[simp] theorem setTccra_ddr : (s.setTccra v).ddr = s.ddr := rfl
@[simp] theorem setTccra_port : (s.setTccra v).port = s.port := rfl
@[simp] theorem setTccra_i : (s.setTccra v).i = s.i := rfl
@[simp] theorem setTccra_psc : (s.setTccra v).psc = s.psc := rfl
@[simp] theorem setTccra_ctx : (s.setTccra v).ctx = s.ctx := rfl
@[simp] theorem setTccra_main : (s.setTccra v).main = s.main := rfl
@[simp] theorem setTccra_hdl : (s.setTccra v).hdl = s.hdl := rfl
@[simp] theorem setTccra_fault : (s.setTccra v).fault = s.fault := rfl
@[simp] theorem setTccra_refused : (s.setTccra v).refused = s.refused := rfl
@[simp] theorem setTccra_trace : (s.setTccra v).trace = s.trace := rfl
@[simp] theorem setTccra_cfg : (s.setTccra v).cfg = s.cfg := rfl
@[simp] theorem setTccra_sched : (s.setTccra v).sched = s.sched := rfl
@[simp] theorem setTccra_draws : (s.setTccra v).draws = s.draws := rfl
end

/-! The update of `tccrb`. -/

section
variable (s : State) (v : Byte)
@[simp] theorem setTccrb_tcnt : (s.setTccrb v).tcnt = s.tcnt := rfl
@[simp] theorem setTccrb_ocr : (s.setTccrb v).ocr = s.ocr := rfl
@[simp] theorem setTccrb_tccra : (s.setTccrb v).tccra = s.tccra := rfl
@[simp] theorem setTccrb_tccrb : (s.setTccrb v).tccrb = v := rfl
@[simp] theorem setTccrb_timsk : (s.setTccrb v).timsk = s.timsk := rfl
@[simp] theorem setTccrb_ocfa : (s.setTccrb v).ocfa = s.ocfa := rfl
@[simp] theorem setTccrb_ddr : (s.setTccrb v).ddr = s.ddr := rfl
@[simp] theorem setTccrb_port : (s.setTccrb v).port = s.port := rfl
@[simp] theorem setTccrb_i : (s.setTccrb v).i = s.i := rfl
@[simp] theorem setTccrb_psc : (s.setTccrb v).psc = s.psc := rfl
@[simp] theorem setTccrb_ctx : (s.setTccrb v).ctx = s.ctx := rfl
@[simp] theorem setTccrb_main : (s.setTccrb v).main = s.main := rfl
@[simp] theorem setTccrb_hdl : (s.setTccrb v).hdl = s.hdl := rfl
@[simp] theorem setTccrb_fault : (s.setTccrb v).fault = s.fault := rfl
@[simp] theorem setTccrb_refused : (s.setTccrb v).refused = s.refused := rfl
@[simp] theorem setTccrb_trace : (s.setTccrb v).trace = s.trace := rfl
@[simp] theorem setTccrb_cfg : (s.setTccrb v).cfg = s.cfg := rfl
@[simp] theorem setTccrb_sched : (s.setTccrb v).sched = s.sched := rfl
@[simp] theorem setTccrb_draws : (s.setTccrb v).draws = s.draws := rfl
end

/-! The update of `timsk`. -/

section
variable (s : State) (v : Byte)
@[simp] theorem setTimsk_tcnt : (s.setTimsk v).tcnt = s.tcnt := rfl
@[simp] theorem setTimsk_ocr : (s.setTimsk v).ocr = s.ocr := rfl
@[simp] theorem setTimsk_tccra : (s.setTimsk v).tccra = s.tccra := rfl
@[simp] theorem setTimsk_tccrb : (s.setTimsk v).tccrb = s.tccrb := rfl
@[simp] theorem setTimsk_timsk : (s.setTimsk v).timsk = v := rfl
@[simp] theorem setTimsk_ocfa : (s.setTimsk v).ocfa = s.ocfa := rfl
@[simp] theorem setTimsk_ddr : (s.setTimsk v).ddr = s.ddr := rfl
@[simp] theorem setTimsk_port : (s.setTimsk v).port = s.port := rfl
@[simp] theorem setTimsk_i : (s.setTimsk v).i = s.i := rfl
@[simp] theorem setTimsk_psc : (s.setTimsk v).psc = s.psc := rfl
@[simp] theorem setTimsk_ctx : (s.setTimsk v).ctx = s.ctx := rfl
@[simp] theorem setTimsk_main : (s.setTimsk v).main = s.main := rfl
@[simp] theorem setTimsk_hdl : (s.setTimsk v).hdl = s.hdl := rfl
@[simp] theorem setTimsk_fault : (s.setTimsk v).fault = s.fault := rfl
@[simp] theorem setTimsk_refused : (s.setTimsk v).refused = s.refused := rfl
@[simp] theorem setTimsk_trace : (s.setTimsk v).trace = s.trace := rfl
@[simp] theorem setTimsk_cfg : (s.setTimsk v).cfg = s.cfg := rfl
@[simp] theorem setTimsk_sched : (s.setTimsk v).sched = s.sched := rfl
@[simp] theorem setTimsk_draws : (s.setTimsk v).draws = s.draws := rfl
end

/-! The update of `ocfa`. -/

section
variable (s : State) (v : Bool)
@[simp] theorem setOcfa_tcnt : (s.setOcfa v).tcnt = s.tcnt := rfl
@[simp] theorem setOcfa_ocr : (s.setOcfa v).ocr = s.ocr := rfl
@[simp] theorem setOcfa_tccra : (s.setOcfa v).tccra = s.tccra := rfl
@[simp] theorem setOcfa_tccrb : (s.setOcfa v).tccrb = s.tccrb := rfl
@[simp] theorem setOcfa_timsk : (s.setOcfa v).timsk = s.timsk := rfl
@[simp] theorem setOcfa_ocfa : (s.setOcfa v).ocfa = v := rfl
@[simp] theorem setOcfa_ddr : (s.setOcfa v).ddr = s.ddr := rfl
@[simp] theorem setOcfa_port : (s.setOcfa v).port = s.port := rfl
@[simp] theorem setOcfa_i : (s.setOcfa v).i = s.i := rfl
@[simp] theorem setOcfa_psc : (s.setOcfa v).psc = s.psc := rfl
@[simp] theorem setOcfa_ctx : (s.setOcfa v).ctx = s.ctx := rfl
@[simp] theorem setOcfa_main : (s.setOcfa v).main = s.main := rfl
@[simp] theorem setOcfa_hdl : (s.setOcfa v).hdl = s.hdl := rfl
@[simp] theorem setOcfa_fault : (s.setOcfa v).fault = s.fault := rfl
@[simp] theorem setOcfa_refused : (s.setOcfa v).refused = s.refused := rfl
@[simp] theorem setOcfa_trace : (s.setOcfa v).trace = s.trace := rfl
@[simp] theorem setOcfa_cfg : (s.setOcfa v).cfg = s.cfg := rfl
@[simp] theorem setOcfa_sched : (s.setOcfa v).sched = s.sched := rfl
@[simp] theorem setOcfa_draws : (s.setOcfa v).draws = s.draws := rfl
end

/-! The update of `ddr`. -/

section
variable (s : State) (v : Byte)
@[simp] theorem setDdr_tcnt : (s.setDdr v).tcnt = s.tcnt := rfl
@[simp] theorem setDdr_ocr : (s.setDdr v).ocr = s.ocr := rfl
@[simp] theorem setDdr_tccra : (s.setDdr v).tccra = s.tccra := rfl
@[simp] theorem setDdr_tccrb : (s.setDdr v).tccrb = s.tccrb := rfl
@[simp] theorem setDdr_timsk : (s.setDdr v).timsk = s.timsk := rfl
@[simp] theorem setDdr_ocfa : (s.setDdr v).ocfa = s.ocfa := rfl
@[simp] theorem setDdr_ddr : (s.setDdr v).ddr = v := rfl
@[simp] theorem setDdr_port : (s.setDdr v).port = s.port := rfl
@[simp] theorem setDdr_i : (s.setDdr v).i = s.i := rfl
@[simp] theorem setDdr_psc : (s.setDdr v).psc = s.psc := rfl
@[simp] theorem setDdr_ctx : (s.setDdr v).ctx = s.ctx := rfl
@[simp] theorem setDdr_main : (s.setDdr v).main = s.main := rfl
@[simp] theorem setDdr_hdl : (s.setDdr v).hdl = s.hdl := rfl
@[simp] theorem setDdr_fault : (s.setDdr v).fault = s.fault := rfl
@[simp] theorem setDdr_refused : (s.setDdr v).refused = s.refused := rfl
@[simp] theorem setDdr_trace : (s.setDdr v).trace = s.trace := rfl
@[simp] theorem setDdr_cfg : (s.setDdr v).cfg = s.cfg := rfl
@[simp] theorem setDdr_sched : (s.setDdr v).sched = s.sched := rfl
@[simp] theorem setDdr_draws : (s.setDdr v).draws = s.draws := rfl
end

/-! The update of `port`. -/

section
variable (s : State) (v : Byte)
@[simp] theorem setPort_tcnt : (s.setPort v).tcnt = s.tcnt := rfl
@[simp] theorem setPort_ocr : (s.setPort v).ocr = s.ocr := rfl
@[simp] theorem setPort_tccra : (s.setPort v).tccra = s.tccra := rfl
@[simp] theorem setPort_tccrb : (s.setPort v).tccrb = s.tccrb := rfl
@[simp] theorem setPort_timsk : (s.setPort v).timsk = s.timsk := rfl
@[simp] theorem setPort_ocfa : (s.setPort v).ocfa = s.ocfa := rfl
@[simp] theorem setPort_ddr : (s.setPort v).ddr = s.ddr := rfl
@[simp] theorem setPort_port : (s.setPort v).port = v := rfl
@[simp] theorem setPort_i : (s.setPort v).i = s.i := rfl
@[simp] theorem setPort_psc : (s.setPort v).psc = s.psc := rfl
@[simp] theorem setPort_ctx : (s.setPort v).ctx = s.ctx := rfl
@[simp] theorem setPort_main : (s.setPort v).main = s.main := rfl
@[simp] theorem setPort_hdl : (s.setPort v).hdl = s.hdl := rfl
@[simp] theorem setPort_fault : (s.setPort v).fault = s.fault := rfl
@[simp] theorem setPort_refused : (s.setPort v).refused = s.refused := rfl
@[simp] theorem setPort_trace : (s.setPort v).trace = s.trace := rfl
@[simp] theorem setPort_cfg : (s.setPort v).cfg = s.cfg := rfl
@[simp] theorem setPort_sched : (s.setPort v).sched = s.sched := rfl
@[simp] theorem setPort_draws : (s.setPort v).draws = s.draws := rfl
end

/-! The update of `i`. -/

section
variable (s : State) (v : Bool)
@[simp] theorem setI_tcnt : (s.setI v).tcnt = s.tcnt := rfl
@[simp] theorem setI_ocr : (s.setI v).ocr = s.ocr := rfl
@[simp] theorem setI_tccra : (s.setI v).tccra = s.tccra := rfl
@[simp] theorem setI_tccrb : (s.setI v).tccrb = s.tccrb := rfl
@[simp] theorem setI_timsk : (s.setI v).timsk = s.timsk := rfl
@[simp] theorem setI_ocfa : (s.setI v).ocfa = s.ocfa := rfl
@[simp] theorem setI_ddr : (s.setI v).ddr = s.ddr := rfl
@[simp] theorem setI_port : (s.setI v).port = s.port := rfl
@[simp] theorem setI_i : (s.setI v).i = v := rfl
@[simp] theorem setI_psc : (s.setI v).psc = s.psc := rfl
@[simp] theorem setI_ctx : (s.setI v).ctx = s.ctx := rfl
@[simp] theorem setI_main : (s.setI v).main = s.main := rfl
@[simp] theorem setI_hdl : (s.setI v).hdl = s.hdl := rfl
@[simp] theorem setI_fault : (s.setI v).fault = s.fault := rfl
@[simp] theorem setI_refused : (s.setI v).refused = s.refused := rfl
@[simp] theorem setI_trace : (s.setI v).trace = s.trace := rfl
@[simp] theorem setI_cfg : (s.setI v).cfg = s.cfg := rfl
@[simp] theorem setI_sched : (s.setI v).sched = s.sched := rfl
@[simp] theorem setI_draws : (s.setI v).draws = s.draws := rfl
end

/-! The update of `psc`. -/

section
variable (s : State) (v : Fin 1024)
@[simp] theorem setPsc_tcnt : (s.setPsc v).tcnt = s.tcnt := rfl
@[simp] theorem setPsc_ocr : (s.setPsc v).ocr = s.ocr := rfl
@[simp] theorem setPsc_tccra : (s.setPsc v).tccra = s.tccra := rfl
@[simp] theorem setPsc_tccrb : (s.setPsc v).tccrb = s.tccrb := rfl
@[simp] theorem setPsc_timsk : (s.setPsc v).timsk = s.timsk := rfl
@[simp] theorem setPsc_ocfa : (s.setPsc v).ocfa = s.ocfa := rfl
@[simp] theorem setPsc_ddr : (s.setPsc v).ddr = s.ddr := rfl
@[simp] theorem setPsc_port : (s.setPsc v).port = s.port := rfl
@[simp] theorem setPsc_i : (s.setPsc v).i = s.i := rfl
@[simp] theorem setPsc_psc : (s.setPsc v).psc = v := rfl
@[simp] theorem setPsc_ctx : (s.setPsc v).ctx = s.ctx := rfl
@[simp] theorem setPsc_main : (s.setPsc v).main = s.main := rfl
@[simp] theorem setPsc_hdl : (s.setPsc v).hdl = s.hdl := rfl
@[simp] theorem setPsc_fault : (s.setPsc v).fault = s.fault := rfl
@[simp] theorem setPsc_refused : (s.setPsc v).refused = s.refused := rfl
@[simp] theorem setPsc_trace : (s.setPsc v).trace = s.trace := rfl
@[simp] theorem setPsc_cfg : (s.setPsc v).cfg = s.cfg := rfl
@[simp] theorem setPsc_sched : (s.setPsc v).sched = s.sched := rfl
@[simp] theorem setPsc_draws : (s.setPsc v).draws = s.draws := rfl
end

/-! The update of `ctx`. -/

section
variable (s : State) (v : Ctx)
@[simp] theorem setCtx_tcnt : (s.setCtx v).tcnt = s.tcnt := rfl
@[simp] theorem setCtx_ocr : (s.setCtx v).ocr = s.ocr := rfl
@[simp] theorem setCtx_tccra : (s.setCtx v).tccra = s.tccra := rfl
@[simp] theorem setCtx_tccrb : (s.setCtx v).tccrb = s.tccrb := rfl
@[simp] theorem setCtx_timsk : (s.setCtx v).timsk = s.timsk := rfl
@[simp] theorem setCtx_ocfa : (s.setCtx v).ocfa = s.ocfa := rfl
@[simp] theorem setCtx_ddr : (s.setCtx v).ddr = s.ddr := rfl
@[simp] theorem setCtx_port : (s.setCtx v).port = s.port := rfl
@[simp] theorem setCtx_i : (s.setCtx v).i = s.i := rfl
@[simp] theorem setCtx_psc : (s.setCtx v).psc = s.psc := rfl
@[simp] theorem setCtx_ctx : (s.setCtx v).ctx = v := rfl
@[simp] theorem setCtx_main : (s.setCtx v).main = s.main := rfl
@[simp] theorem setCtx_hdl : (s.setCtx v).hdl = s.hdl := rfl
@[simp] theorem setCtx_fault : (s.setCtx v).fault = s.fault := rfl
@[simp] theorem setCtx_refused : (s.setCtx v).refused = s.refused := rfl
@[simp] theorem setCtx_trace : (s.setCtx v).trace = s.trace := rfl
@[simp] theorem setCtx_cfg : (s.setCtx v).cfg = s.cfg := rfl
@[simp] theorem setCtx_sched : (s.setCtx v).sched = s.sched := rfl
@[simp] theorem setCtx_draws : (s.setCtx v).draws = s.draws := rfl
end

/-! The update of `main`. -/

section
variable (s : State) (v : Context)
@[simp] theorem setMain_tcnt : (s.setMain v).tcnt = s.tcnt := rfl
@[simp] theorem setMain_ocr : (s.setMain v).ocr = s.ocr := rfl
@[simp] theorem setMain_tccra : (s.setMain v).tccra = s.tccra := rfl
@[simp] theorem setMain_tccrb : (s.setMain v).tccrb = s.tccrb := rfl
@[simp] theorem setMain_timsk : (s.setMain v).timsk = s.timsk := rfl
@[simp] theorem setMain_ocfa : (s.setMain v).ocfa = s.ocfa := rfl
@[simp] theorem setMain_ddr : (s.setMain v).ddr = s.ddr := rfl
@[simp] theorem setMain_port : (s.setMain v).port = s.port := rfl
@[simp] theorem setMain_i : (s.setMain v).i = s.i := rfl
@[simp] theorem setMain_psc : (s.setMain v).psc = s.psc := rfl
@[simp] theorem setMain_ctx : (s.setMain v).ctx = s.ctx := rfl
@[simp] theorem setMain_main : (s.setMain v).main = v := rfl
@[simp] theorem setMain_hdl : (s.setMain v).hdl = s.hdl := rfl
@[simp] theorem setMain_fault : (s.setMain v).fault = s.fault := rfl
@[simp] theorem setMain_refused : (s.setMain v).refused = s.refused := rfl
@[simp] theorem setMain_trace : (s.setMain v).trace = s.trace := rfl
@[simp] theorem setMain_cfg : (s.setMain v).cfg = s.cfg := rfl
@[simp] theorem setMain_sched : (s.setMain v).sched = s.sched := rfl
@[simp] theorem setMain_draws : (s.setMain v).draws = s.draws := rfl
end

/-! The update of `hdl`. -/

section
variable (s : State) (v : Context)
@[simp] theorem setHdl_tcnt : (s.setHdl v).tcnt = s.tcnt := rfl
@[simp] theorem setHdl_ocr : (s.setHdl v).ocr = s.ocr := rfl
@[simp] theorem setHdl_tccra : (s.setHdl v).tccra = s.tccra := rfl
@[simp] theorem setHdl_tccrb : (s.setHdl v).tccrb = s.tccrb := rfl
@[simp] theorem setHdl_timsk : (s.setHdl v).timsk = s.timsk := rfl
@[simp] theorem setHdl_ocfa : (s.setHdl v).ocfa = s.ocfa := rfl
@[simp] theorem setHdl_ddr : (s.setHdl v).ddr = s.ddr := rfl
@[simp] theorem setHdl_port : (s.setHdl v).port = s.port := rfl
@[simp] theorem setHdl_i : (s.setHdl v).i = s.i := rfl
@[simp] theorem setHdl_psc : (s.setHdl v).psc = s.psc := rfl
@[simp] theorem setHdl_ctx : (s.setHdl v).ctx = s.ctx := rfl
@[simp] theorem setHdl_main : (s.setHdl v).main = s.main := rfl
@[simp] theorem setHdl_hdl : (s.setHdl v).hdl = v := rfl
@[simp] theorem setHdl_fault : (s.setHdl v).fault = s.fault := rfl
@[simp] theorem setHdl_refused : (s.setHdl v).refused = s.refused := rfl
@[simp] theorem setHdl_trace : (s.setHdl v).trace = s.trace := rfl
@[simp] theorem setHdl_cfg : (s.setHdl v).cfg = s.cfg := rfl
@[simp] theorem setHdl_sched : (s.setHdl v).sched = s.sched := rfl
@[simp] theorem setHdl_draws : (s.setHdl v).draws = s.draws := rfl
end

/-! The update of `fault`. -/

section
variable (s : State) (v : Option FaultRecord)
@[simp] theorem setFault_tcnt : (s.setFault v).tcnt = s.tcnt := rfl
@[simp] theorem setFault_ocr : (s.setFault v).ocr = s.ocr := rfl
@[simp] theorem setFault_tccra : (s.setFault v).tccra = s.tccra := rfl
@[simp] theorem setFault_tccrb : (s.setFault v).tccrb = s.tccrb := rfl
@[simp] theorem setFault_timsk : (s.setFault v).timsk = s.timsk := rfl
@[simp] theorem setFault_ocfa : (s.setFault v).ocfa = s.ocfa := rfl
@[simp] theorem setFault_ddr : (s.setFault v).ddr = s.ddr := rfl
@[simp] theorem setFault_port : (s.setFault v).port = s.port := rfl
@[simp] theorem setFault_i : (s.setFault v).i = s.i := rfl
@[simp] theorem setFault_psc : (s.setFault v).psc = s.psc := rfl
@[simp] theorem setFault_ctx : (s.setFault v).ctx = s.ctx := rfl
@[simp] theorem setFault_main : (s.setFault v).main = s.main := rfl
@[simp] theorem setFault_hdl : (s.setFault v).hdl = s.hdl := rfl
@[simp] theorem setFault_fault : (s.setFault v).fault = v := rfl
@[simp] theorem setFault_refused : (s.setFault v).refused = s.refused := rfl
@[simp] theorem setFault_trace : (s.setFault v).trace = s.trace := rfl
@[simp] theorem setFault_cfg : (s.setFault v).cfg = s.cfg := rfl
@[simp] theorem setFault_sched : (s.setFault v).sched = s.sched := rfl
@[simp] theorem setFault_draws : (s.setFault v).draws = s.draws := rfl
end

/-! The update of `refused`. -/

section
variable (s : State) (v : Option RefusalRecord)
@[simp] theorem setRefused_tcnt : (s.setRefused v).tcnt = s.tcnt := rfl
@[simp] theorem setRefused_ocr : (s.setRefused v).ocr = s.ocr := rfl
@[simp] theorem setRefused_tccra : (s.setRefused v).tccra = s.tccra := rfl
@[simp] theorem setRefused_tccrb : (s.setRefused v).tccrb = s.tccrb := rfl
@[simp] theorem setRefused_timsk : (s.setRefused v).timsk = s.timsk := rfl
@[simp] theorem setRefused_ocfa : (s.setRefused v).ocfa = s.ocfa := rfl
@[simp] theorem setRefused_ddr : (s.setRefused v).ddr = s.ddr := rfl
@[simp] theorem setRefused_port : (s.setRefused v).port = s.port := rfl
@[simp] theorem setRefused_i : (s.setRefused v).i = s.i := rfl
@[simp] theorem setRefused_psc : (s.setRefused v).psc = s.psc := rfl
@[simp] theorem setRefused_ctx : (s.setRefused v).ctx = s.ctx := rfl
@[simp] theorem setRefused_main : (s.setRefused v).main = s.main := rfl
@[simp] theorem setRefused_hdl : (s.setRefused v).hdl = s.hdl := rfl
@[simp] theorem setRefused_fault : (s.setRefused v).fault = s.fault := rfl
@[simp] theorem setRefused_refused : (s.setRefused v).refused = v := rfl
@[simp] theorem setRefused_trace : (s.setRefused v).trace = s.trace := rfl
@[simp] theorem setRefused_cfg : (s.setRefused v).cfg = s.cfg := rfl
@[simp] theorem setRefused_sched : (s.setRefused v).sched = s.sched := rfl
@[simp] theorem setRefused_draws : (s.setRefused v).draws = s.draws := rfl
end

/-! The update of `trace`. -/

section
variable (s : State) (v : List LineEvent)
@[simp] theorem setTrace_tcnt : (s.setTrace v).tcnt = s.tcnt := rfl
@[simp] theorem setTrace_ocr : (s.setTrace v).ocr = s.ocr := rfl
@[simp] theorem setTrace_tccra : (s.setTrace v).tccra = s.tccra := rfl
@[simp] theorem setTrace_tccrb : (s.setTrace v).tccrb = s.tccrb := rfl
@[simp] theorem setTrace_timsk : (s.setTrace v).timsk = s.timsk := rfl
@[simp] theorem setTrace_ocfa : (s.setTrace v).ocfa = s.ocfa := rfl
@[simp] theorem setTrace_ddr : (s.setTrace v).ddr = s.ddr := rfl
@[simp] theorem setTrace_port : (s.setTrace v).port = s.port := rfl
@[simp] theorem setTrace_i : (s.setTrace v).i = s.i := rfl
@[simp] theorem setTrace_psc : (s.setTrace v).psc = s.psc := rfl
@[simp] theorem setTrace_ctx : (s.setTrace v).ctx = s.ctx := rfl
@[simp] theorem setTrace_main : (s.setTrace v).main = s.main := rfl
@[simp] theorem setTrace_hdl : (s.setTrace v).hdl = s.hdl := rfl
@[simp] theorem setTrace_fault : (s.setTrace v).fault = s.fault := rfl
@[simp] theorem setTrace_refused : (s.setTrace v).refused = s.refused := rfl
@[simp] theorem setTrace_trace : (s.setTrace v).trace = v := rfl
@[simp] theorem setTrace_cfg : (s.setTrace v).cfg = s.cfg := rfl
@[simp] theorem setTrace_sched : (s.setTrace v).sched = s.sched := rfl
@[simp] theorem setTrace_draws : (s.setTrace v).draws = s.draws := rfl
end

/-! The update of `cfg`. -/

section
variable (s : State) (v : Params)
@[simp] theorem setCfg_tcnt : (s.setCfg v).tcnt = s.tcnt := rfl
@[simp] theorem setCfg_ocr : (s.setCfg v).ocr = s.ocr := rfl
@[simp] theorem setCfg_tccra : (s.setCfg v).tccra = s.tccra := rfl
@[simp] theorem setCfg_tccrb : (s.setCfg v).tccrb = s.tccrb := rfl
@[simp] theorem setCfg_timsk : (s.setCfg v).timsk = s.timsk := rfl
@[simp] theorem setCfg_ocfa : (s.setCfg v).ocfa = s.ocfa := rfl
@[simp] theorem setCfg_ddr : (s.setCfg v).ddr = s.ddr := rfl
@[simp] theorem setCfg_port : (s.setCfg v).port = s.port := rfl
@[simp] theorem setCfg_i : (s.setCfg v).i = s.i := rfl
@[simp] theorem setCfg_psc : (s.setCfg v).psc = s.psc := rfl
@[simp] theorem setCfg_ctx : (s.setCfg v).ctx = s.ctx := rfl
@[simp] theorem setCfg_main : (s.setCfg v).main = s.main := rfl
@[simp] theorem setCfg_hdl : (s.setCfg v).hdl = s.hdl := rfl
@[simp] theorem setCfg_fault : (s.setCfg v).fault = s.fault := rfl
@[simp] theorem setCfg_refused : (s.setCfg v).refused = s.refused := rfl
@[simp] theorem setCfg_trace : (s.setCfg v).trace = s.trace := rfl
@[simp] theorem setCfg_cfg : (s.setCfg v).cfg = v := rfl
@[simp] theorem setCfg_sched : (s.setCfg v).sched = s.sched := rfl
@[simp] theorem setCfg_draws : (s.setCfg v).draws = s.draws := rfl
end

/-! The update of `sched`. -/

section
variable (s : State) (v : List Agent)
@[simp] theorem setSched_tcnt : (s.setSched v).tcnt = s.tcnt := rfl
@[simp] theorem setSched_ocr : (s.setSched v).ocr = s.ocr := rfl
@[simp] theorem setSched_tccra : (s.setSched v).tccra = s.tccra := rfl
@[simp] theorem setSched_tccrb : (s.setSched v).tccrb = s.tccrb := rfl
@[simp] theorem setSched_timsk : (s.setSched v).timsk = s.timsk := rfl
@[simp] theorem setSched_ocfa : (s.setSched v).ocfa = s.ocfa := rfl
@[simp] theorem setSched_ddr : (s.setSched v).ddr = s.ddr := rfl
@[simp] theorem setSched_port : (s.setSched v).port = s.port := rfl
@[simp] theorem setSched_i : (s.setSched v).i = s.i := rfl
@[simp] theorem setSched_psc : (s.setSched v).psc = s.psc := rfl
@[simp] theorem setSched_ctx : (s.setSched v).ctx = s.ctx := rfl
@[simp] theorem setSched_main : (s.setSched v).main = s.main := rfl
@[simp] theorem setSched_hdl : (s.setSched v).hdl = s.hdl := rfl
@[simp] theorem setSched_fault : (s.setSched v).fault = s.fault := rfl
@[simp] theorem setSched_refused : (s.setSched v).refused = s.refused := rfl
@[simp] theorem setSched_trace : (s.setSched v).trace = s.trace := rfl
@[simp] theorem setSched_cfg : (s.setSched v).cfg = s.cfg := rfl
@[simp] theorem setSched_sched : (s.setSched v).sched = v := rfl
@[simp] theorem setSched_draws : (s.setSched v).draws = s.draws := rfl
end

/-! The update of `draws`. -/

section
variable (s : State) (v : Nat)
@[simp] theorem setDraws_tcnt : (s.setDraws v).tcnt = s.tcnt := rfl
@[simp] theorem setDraws_ocr : (s.setDraws v).ocr = s.ocr := rfl
@[simp] theorem setDraws_tccra : (s.setDraws v).tccra = s.tccra := rfl
@[simp] theorem setDraws_tccrb : (s.setDraws v).tccrb = s.tccrb := rfl
@[simp] theorem setDraws_timsk : (s.setDraws v).timsk = s.timsk := rfl
@[simp] theorem setDraws_ocfa : (s.setDraws v).ocfa = s.ocfa := rfl
@[simp] theorem setDraws_ddr : (s.setDraws v).ddr = s.ddr := rfl
@[simp] theorem setDraws_port : (s.setDraws v).port = s.port := rfl
@[simp] theorem setDraws_i : (s.setDraws v).i = s.i := rfl
@[simp] theorem setDraws_psc : (s.setDraws v).psc = s.psc := rfl
@[simp] theorem setDraws_ctx : (s.setDraws v).ctx = s.ctx := rfl
@[simp] theorem setDraws_main : (s.setDraws v).main = s.main := rfl
@[simp] theorem setDraws_hdl : (s.setDraws v).hdl = s.hdl := rfl
@[simp] theorem setDraws_fault : (s.setDraws v).fault = s.fault := rfl
@[simp] theorem setDraws_refused : (s.setDraws v).refused = s.refused := rfl
@[simp] theorem setDraws_trace : (s.setDraws v).trace = s.trace := rfl
@[simp] theorem setDraws_cfg : (s.setDraws v).cfg = s.cfg := rfl
@[simp] theorem setDraws_sched : (s.setDraws v).sched = s.sched := rfl
@[simp] theorem setDraws_draws : (s.setDraws v).draws = v := rfl
end

/-! The running context. -/

theorem cur_main {s : State} (h : s.ctx = .main) : s.cur = s.main := by
  simp [State.cur, h]

theorem cur_handler {s : State} (h : s.ctx = .handler) : s.cur = s.hdl := by
  simp [State.cur, h]

@[simp] theorem setCur_tcnt (s : State) (c : Context) : (s.setCur c).tcnt = s.tcnt := by
  cases h : s.ctx <;> simp [State.setCur, h]
@[simp] theorem setCur_ocr (s : State) (c : Context) : (s.setCur c).ocr = s.ocr := by
  cases h : s.ctx <;> simp [State.setCur, h]
@[simp] theorem setCur_tccra (s : State) (c : Context) : (s.setCur c).tccra = s.tccra := by
  cases h : s.ctx <;> simp [State.setCur, h]
@[simp] theorem setCur_tccrb (s : State) (c : Context) : (s.setCur c).tccrb = s.tccrb := by
  cases h : s.ctx <;> simp [State.setCur, h]
@[simp] theorem setCur_timsk (s : State) (c : Context) : (s.setCur c).timsk = s.timsk := by
  cases h : s.ctx <;> simp [State.setCur, h]
@[simp] theorem setCur_ocfa (s : State) (c : Context) : (s.setCur c).ocfa = s.ocfa := by
  cases h : s.ctx <;> simp [State.setCur, h]
@[simp] theorem setCur_ddr (s : State) (c : Context) : (s.setCur c).ddr = s.ddr := by
  cases h : s.ctx <;> simp [State.setCur, h]
@[simp] theorem setCur_port (s : State) (c : Context) : (s.setCur c).port = s.port := by
  cases h : s.ctx <;> simp [State.setCur, h]
@[simp] theorem setCur_i (s : State) (c : Context) : (s.setCur c).i = s.i := by
  cases h : s.ctx <;> simp [State.setCur, h]
@[simp] theorem setCur_psc (s : State) (c : Context) : (s.setCur c).psc = s.psc := by
  cases h : s.ctx <;> simp [State.setCur, h]
@[simp] theorem setCur_ctx (s : State) (c : Context) : (s.setCur c).ctx = s.ctx := by
  cases h : s.ctx <;> simp [State.setCur, h]
@[simp] theorem setCur_fault (s : State) (c : Context) : (s.setCur c).fault = s.fault := by
  cases h : s.ctx <;> simp [State.setCur, h]
@[simp] theorem setCur_refused (s : State) (c : Context) : (s.setCur c).refused = s.refused := by
  cases h : s.ctx <;> simp [State.setCur, h]
@[simp] theorem setCur_trace (s : State) (c : Context) : (s.setCur c).trace = s.trace := by
  cases h : s.ctx <;> simp [State.setCur, h]
@[simp] theorem setCur_cfg (s : State) (c : Context) : (s.setCur c).cfg = s.cfg := by
  cases h : s.ctx <;> simp [State.setCur, h]
@[simp] theorem setCur_sched (s : State) (c : Context) : (s.setCur c).sched = s.sched := by
  cases h : s.ctx <;> simp [State.setCur, h]
@[simp] theorem setCur_draws (s : State) (c : Context) : (s.setCur c).draws = s.draws := by
  cases h : s.ctx <;> simp [State.setCur, h]

/-! The updates that write no context leave the running record. -/

@[simp] theorem setTcnt_cur (s : State) (v : U16) : (s.setTcnt v).cur = s.cur := rfl
@[simp] theorem setOcr_cur (s : State) (v : U16) : (s.setOcr v).cur = s.cur := rfl
@[simp] theorem setTccra_cur (s : State) (v : Byte) : (s.setTccra v).cur = s.cur := rfl
@[simp] theorem setTccrb_cur (s : State) (v : Byte) : (s.setTccrb v).cur = s.cur := rfl
@[simp] theorem setTimsk_cur (s : State) (v : Byte) : (s.setTimsk v).cur = s.cur := rfl
@[simp] theorem setOcfa_cur (s : State) (v : Bool) : (s.setOcfa v).cur = s.cur := rfl
@[simp] theorem setDdr_cur (s : State) (v : Byte) : (s.setDdr v).cur = s.cur := rfl
@[simp] theorem setPort_cur (s : State) (v : Byte) : (s.setPort v).cur = s.cur := rfl
@[simp] theorem setI_cur (s : State) (v : Bool) : (s.setI v).cur = s.cur := rfl
@[simp] theorem setPsc_cur (s : State) (v : Fin 1024) : (s.setPsc v).cur = s.cur := rfl
@[simp] theorem setFault_cur (s : State) (v : Option FaultRecord) : (s.setFault v).cur = s.cur := rfl
@[simp] theorem setRefused_cur (s : State) (v : Option RefusalRecord) : (s.setRefused v).cur = s.cur := rfl
@[simp] theorem setTrace_cur (s : State) (v : List LineEvent) : (s.setTrace v).cur = s.cur := rfl
@[simp] theorem setCfg_cur (s : State) (v : Params) : (s.setCfg v).cur = s.cur := rfl
@[simp] theorem setSched_cur (s : State) (v : List Agent) : (s.setSched v).cur = s.cur := rfl
@[simp] theorem setDraws_cur (s : State) (v : Nat) : (s.setDraws v).cur = s.cur := rfl

@[simp] theorem setCur_cur (s : State) (c : Context) : (s.setCur c).cur = c := by
  cases h : s.ctx <;> simp [State.setCur, State.cur, h]

theorem setCur_main_of_main {s : State} (h : s.ctx = .main) (c : Context) :
    (s.setCur c).main = c := by simp [State.setCur, h]

theorem setCur_hdl_of_main {s : State} (h : s.ctx = .main) (c : Context) :
    (s.setCur c).hdl = s.hdl := by simp [State.setCur, h]

theorem setCur_main_of_handler {s : State} (h : s.ctx = .handler) (c : Context) :
    (s.setCur c).main = s.main := by simp [State.setCur, h]

theorem setCur_hdl_of_handler {s : State} (h : s.ctx = .handler) (c : Context) :
    (s.setCur c).hdl = c := by simp [State.setCur, h]

@[simp] theorem setCur_setCur (s : State) (c d : Context) : (s.setCur c).setCur d = s.setCur d := by
  cases h : s.ctx <;> simp [State.setCur, State.setMain, State.setHdl, h]

/-- `advance` ends the phase and moves the running pc on by one. -/
theorem advance_eq (s : State) :
    s.advance = s.setCur ⟨s.cur.pc + 1, .first, s.cur.d, s.cur.sv⟩ := rfl

/-- `latch` writes the data latch of the running context. -/
theorem latch_eq (s : State) (v : U16) :
    s.latch v = s.setCur ⟨s.cur.pc, s.cur.ph, some v, s.cur.sv⟩ := rfl

end Sys2Proof.Machine
end

