-- ==== Sys2Proof/Laws/Access.lean ====
section
/-! SUPPORT. The address map and the register accesses: one lemma for each says everything it can
do. -/

namespace Sys2Proof

/-- A mapped address is the address of the register it names. -/
theorem addrOf_of_map {p : Params} {a : Addr} {r : Reg} (h : p.map a = some r) :
    p.addrOf r = a := by
  have := List.find?_some h
  simpa using this

/-- The ten registers are all. -/
theorem Reg.mem_all (r : Reg) : r ∈ Reg.all := by cases r <;> decide

/-- With distinct addresses, two registers of one address are one register. -/
theorem addrOf_injective {p : Params} (h : p.addrsDistinct = true) {r r' : Reg}
    (ha : p.addrOf r = p.addrOf r') : r = r' :=
  List.inj_on_of_nodup_map (of_decide_eq_true h) (Reg.mem_all r) (Reg.mem_all r') ha

/-- With distinct addresses, the address of a register names it. -/
theorem map_addrOf {p : Params} (h : p.addrsDistinct = true) (r : Reg) :
    p.map (p.addrOf r) = some r := by
  cases hm : p.map (p.addrOf r) with
  | none => exact absurd (List.find?_eq_none.mp hm r (Reg.mem_all r)) (by simp)
  | some r' => rw [addrOf_injective h (addrOf_of_map hm)]

/-- An address is unmapped exactly when it is no register's. -/
theorem map_eq_none {p : Params} {a : Addr} : p.map a = none ↔ ∀ r, p.addrOf r ≠ a := by
  simp [Params.map, List.find?_eq_none, Reg.mem_all]

/-- Well-formed parameters have distinct addresses. -/
theorem wf_addrsDistinct {p : Params} (h : p.wf = true) : p.addrsDistinct = true := by
  simp only [Params.wf, Bool.and_eq_true] at h
  exact h.1.1

/-! The program counter. -/

/-- A program counter at an index stands at that index. -/
@[simp] theorem toPc_toNat (i : Index) : (Index.toPc i).toNat = i.toNat := by
  have := i.isLt
  simp only [Index.toPc, BitVec.truncate_eq_setWidth, BitVec.toNat_setWidth]
  omega

/-- From an index the program counter counts up by 1 and does not wrap. -/
theorem pc_add_one_toNat {pc : Pc} (h : pc.toNat < 0x10000) : (pc + 1).toNat = pc.toNat + 1 := by
  rw [BitVec.toNat_add]
  simp
  omega

/-- A word is fetched exactly at an index below the end of PROGRAM. -/
theorem wordAt_eq_some {p : Params} {pc : Pc} {w : Word} :
    p.wordAt pc = some w ↔ pc.toNat < 0x10000 ∧ p.program[pc.toNat]? = some w := by
  unfold Params.wordAt
  split <;> simp_all

/-- No word is fetched at or past the end of PROGRAM, nor past the last index. -/
theorem wordAt_eq_none {p : Params} {pc : Pc} :
    p.wordAt pc = none ↔ p.program.length ≤ pc.toNat ∨ 0x10000 ≤ pc.toNat := by
  unfold Params.wordAt
  split
  · rw [List.getElem?_eq_none_iff]; omega
  · simp only [true_iff]; omega

end Sys2Proof

namespace Sys2Proof.Machine

/-! Halves. -/

/-- The bits of a word made of two bytes. -/
theorem getLsbD_bytes (hi lo : Byte) (i : Nat) :
    BitVec.getLsbD (hi ++ lo : U16) i = if i < 8 then lo.getLsbD i else hi.getLsbD (i - 8) :=
  BitVec.getLsbD_append

/-- The low byte of a word made of two bytes. -/
theorem lo_bytes (hi lo : Byte) : (hi ++ lo : U16).extractLsb' 0 8 = lo := by
  apply BitVec.eq_of_getLsbD_eq
  intro i hlt
  rw [BitVec.getLsbD_extractLsb', getLsbD_bytes]
  simp [hlt]

/-- The high byte of a word made of two bytes. -/
theorem hi_bytes (hi lo : Byte) : (hi ++ lo : U16).extractLsb' 8 8 = hi := by
  apply BitVec.eq_of_getLsbD_eq
  intro i hlt
  rw [BitVec.getLsbD_extractLsb', getLsbD_bytes]
  simp [hlt]

@[simp] theorem loByte_withLo (v : U16) (b : Byte) : loByte (withLo v b) = b := lo_bytes _ _
@[simp] theorem hiByte_withLo (v : U16) (b : Byte) : hiByte (withLo v b) = hiByte v := hi_bytes _ _
@[simp] theorem loByte_withHi (v : U16) (b : Byte) : loByte (withHi v b) = loByte v := lo_bytes _ _
@[simp] theorem hiByte_withHi (v : U16) (b : Byte) : hiByte (withHi v b) = b := hi_bytes _ _

/-- A word is its two halves. -/
theorem hi_append_lo (v : U16) : hiByte v ++ loByte v = v := by
  apply BitVec.eq_of_getLsbD_eq
  intro i hi
  rw [getLsbD_bytes, hiByte, loByte, BitVec.getLsbD_extractLsb', BitVec.getLsbD_extractLsb']
  rcases Nat.lt_or_ge i 8 with h | h
  · simp [h]
  · simp [show ¬ i < 8 by omega, show i - 8 < 8 by omega, show 8 + (i - 8) = i by omega]

/-! The byte of TIFR. -/

/-- Bit 1 of a read of TIFR is OCFA, whatever is drawn. -/
@[simp] theorem tifrByte_bit1 (d : BitVec 3) (f : Bool) : (tifrByte d f).getLsbD 1 = f := by
  revert d f
  decide

/-- The bits of TIFR that are not drawn: OCFA and the reserved zeros. -/
theorem tifrByte_fixed (d : BitVec 3) (f : Bool) :
    tifrByte d f &&& 0xDA = if f then 0x02 else 0x00 := by
  revert d f
  decide

/-- A register's byte, as the state's read of it gives, is what the register holds. -/
theorem regByte_holds (s : State) (d : BitVec 3) (r : Reg) : RegHolds s r (s.regByte d r) := by
  cases r <;> simp only [RegHolds, State.regByte, loByte, hiByte]
  refine ⟨tifrByte_bit1 d s.ocfa, ?_⟩
  have : ∀ d f, tifrByte d f &&& 0xD8 = 0 := by decide
  exact this d s.ocfa

/-! RegRead8 and RegWrite8. -/

/-- RegRead8 answers the register's byte and moves nothing but the count of draws, or faults. -/
theorem regRead8_eq (a : Addr) (s : State) :
    regRead8 a s = match s.cfg.map a with
      | some r => .ok (s.regByte (Config.freeTifr s.draws) r, s.setDraws (s.draws + 1))
      | none => .error (.unmapped a) := rfl

/-- A register takes a value exactly when the spec's list gives no refusal for it. -/
theorem writeReg_error {s : State} {r : Reg} {v : Byte} {c : RefusalCode} :
    s.writeReg r v = .error c ↔ refusalOf r v = some c := by
  cases r <;> simp only [State.writeReg, refusalOf, reduceCtorEq]
  · by_cases h : v = 0#8 <;> simp [tccraAdmits, h]
  · have e : tccrbAdmits v =
        !decide (v.getLsbD 5 = true ∨ v.getLsbD 4 = true ∨ 6 ≤ (v &&& 7).toNat) := by
      revert v
      decide
    rw [e]
    by_cases h : v.getLsbD 5 = true ∨ v.getLsbD 4 = true ∨ 6 ≤ (v &&& 7).toNat <;>
      simp only [h, decide_true, decide_false, Bool.not_true, Bool.not_false, if_true, if_false,
        Bool.false_eq_true, reduceCtorEq, Except.error.injEq, Option.some.injEq]
  · by_cases h : v &&& 0xFD#8 = 0#8 <;> simp [timskAdmits, h]

/-- A write that is not refused stores. -/
theorem writeReg_ok_iff {s : State} {r : Reg} {v : Byte} :
    (∃ t, s.writeReg r v = .ok t) ↔ refusalOf r v = none := by
  cases h : s.writeReg r v with
  | ok t =>
    simp only [Except.ok.injEq, exists_eq', true_iff]
    cases hr : refusalOf r v with
    | none => rfl
    | some c => rw [writeReg_error.mpr hr] at h; cases h
  | error c => simp [writeReg_error.mp h]

/-- What a byte write leaves alone: all but the registers and the trace. -/
theorem writeReg_frame {s t : State} {r : Reg} {v : Byte} (h : s.writeReg r v = .ok t) :
    t.i = s.i ∧ t.ctx = s.ctx ∧ t.main = s.main ∧ t.hdl = s.hdl ∧ t.draws = s.draws ∧
      SameMachine s t := by
  cases r <;> simp only [State.writeReg] at h
  case tccra | tccrb | timsk =>
    split at h <;> cases h
    exact ⟨rfl, rfl, rfl, rfl, rfl, ⟨rfl, rfl, rfl, rfl, rfl⟩⟩
  all_goals
    cases h
    exact ⟨rfl, rfl, rfl, rfl, rfl, ⟨rfl, rfl, rfl, rfl, rfl⟩⟩

/-- What a byte write does: it stores the byte in its register, or clears the flag, and appends the
observation for PORT; every other byte stays. -/
theorem writeReg_wrote {s t : State} {r : Reg} {v : Byte} (h : s.writeReg r v = .ok t) :
    WroteByte s t r v := by
  have lo : ∀ v b, (withLo v b).extractLsb' 0 8 = b := loByte_withLo
  have hi : ∀ v b, (withHi v b).extractLsb' 8 8 = b := hiByte_withHi
  have lo' : ∀ v b, (withHi v b).extractLsb' 0 8 = v.extractLsb' 0 8 := loByte_withHi
  have hi' : ∀ v b, (withLo v b).extractLsb' 8 8 = v.extractLsb' 8 8 := hiByte_withLo
  cases r <;> simp only [State.writeReg] at h
  case tccra | tccrb | timsk =>
    split at h <;> cases h
    refine ⟨fun _ => rfl, by simp, fun r' hr b => ?_, by simp⟩
    cases r' <;> first | exact Iff.rfl | exact absurd rfl hr
  all_goals
    cases h
    refine ⟨fun hr => ?_, ?_, fun r' hr b => ?_, ?_⟩
    · first | exact absurd rfl hr | simp [RegHolds, State.writePort, lo, hi]
    · by_cases hv : v.getLsbD 1 = true <;>
        simp [ocfaAfterWrite, State.writePort, hv, Bool.and_comm]
    · cases r' <;> simp_all [RegHolds, State.writePort]
    · simp [State.writePort, State.lineEvent]

/-- RegWrite8 answers a next state exactly when the address is mapped and the register takes the
value. -/
theorem regWrite8_next {a : Addr} {v : Byte} {s t : State} :
    regWrite8 a v s = .next t ↔ ∃ r, s.cfg.map a = some r ∧ s.writeReg r v = .ok t := by
  unfold regWrite8
  cases s.cfg.map a with
  | none => simp
  | some r => cases hw : s.writeReg r v <;> simp [hw]

/-- The fault and the refusals of RegWrite8. -/
theorem regWrite8_stop {a : Addr} {v : Byte} {s : State} :
    (∀ f, regWrite8 a v s = .fault f ↔ s.cfg.map a = none ∧ f = .unmapped a) ∧
      ∀ e, regWrite8 a v s = .refused e ↔
        ∃ r c, s.cfg.map a = some r ∧ refusalOf r v = some c ∧ e = .refuse c := by
  unfold regWrite8
  cases s.cfg.map a with
  | none => simp [eq_comm]
  | some r =>
    simp only [← writeReg_error (s := s)]
    cases hw : s.writeReg r v <;> simp [hw, eq_comm]

/-! RegRead16 and RegWrite16. -/

/-- The word register an address names, and the fault where it names none. -/
theorem wordMap_eq (p : Params) (a : Addr) :
    p.wordMap a = if a = p.aTcnt then some .tcnt else if a = p.aOcr then some .ocr else none := rfl

/-- The fault of a word access tells mapped from unmapped. -/
theorem wordFault_eq (p : Params) (a : Addr) :
    wordFault p a = if p.map a ≠ none then .width a else .unmapped a := by
  unfold wordFault
  cases p.map a <;> simp

/-- RegRead16 answers the word of A_TCNT or A_OCR, or faults. -/
theorem regRead16_eq (a : Addr) (s : State) :
    regRead16 a s = if a = s.cfg.aTcnt then .ok s.tcnt else if a = s.cfg.aOcr then .ok s.ocr
      else .error (wordFault s.cfg a) := by
  unfold regRead16
  rw [wordMap_eq]
  by_cases h : a = s.cfg.aTcnt
  · simp only [h, if_true]; rfl
  · by_cases h' : a = s.cfg.aOcr
    · subst h'; simp only [h, if_true, if_false]; rfl
    · simp only [h, h', if_false]

/-- RegWrite16 writes the word of A_TCNT or A_OCR, or faults. -/
theorem regWrite16_eq (a : Addr) (v : U16) (s : State) :
    regWrite16 a v s = if a = s.cfg.aTcnt then .next (s.setTcnt v)
      else if a = s.cfg.aOcr then .next (s.setOcr v) else .fault (wordFault s.cfg a) := by
  unfold regWrite16
  rw [wordMap_eq]
  by_cases h : a = s.cfg.aTcnt
  · simp only [h, if_true]; rfl
  · by_cases h' : a = s.cfg.aOcr
    · subst h'; simp only [h, if_true, if_false]; rfl
    · simp only [h, h', if_false]

end Sys2Proof.Machine
end

