-- ==== Sys2Proof/Machine/Boot.lean ====
section
/-! DEFINITION. The software obligations the spec states as operations: the arm sequence
(70_reset_and_hazards.md R205), its order and what a correct boot is (R206), and the handler contract
(60_exceptions.md R173). No step uses them. -/

namespace Sys2Proof.Machine

/-- The arm sequence in the spec's order (70_reset_and_hazards.md R205), for a threshold and the
divisor 256 in CTC. -/
def armSequence (p : Params) (threshold : U16) : List Instr :=
  [.wr16 p.aTcnt 0,
   .wr8 p.aOcr (loByte threshold),
   .wr8 (p.aOcr + 1) (hiByte threshold),
   .wr8 p.aTifr 0x02,
   .setb p.aTccrb 0x0C,
   .setb p.aDdr p.outMask,
   .cli,
   .setb p.aTimsk 0x02,
   .setb p.aPort p.outMask,
   .sei,
   .jmp 10]

/-- The handler contract (60_exceptions.md R173): toggle the line, clear the flag, return. -/
def handlerContract (p : Params) : List Instr :=
  [.tglb p.aPort p.outMask, .wr8 p.aTifr 0x02, .reti]

/-- What is known of a register byte: the bits of `known`, which are those of `value`. -/
structure KnownByte where
  known : Byte
  value : Byte
  deriving DecidableEq, Repr

/-- Nothing is known of the byte. -/
def KnownByte.nothing : KnownByte := ⟨0, 0⟩

/-- The byte is known whole. -/
def KnownByte.exactly (v : Byte) : KnownByte := ⟨0xFF, v⟩

/-- What is known of f(v, m) where `k` is known of v (40_register_access.md R106, R107, R108). -/
def KnownByte.apply (k : KnownByte) (kind : RmwKind) (m : Byte) : KnownByte :=
  match kind with
  | .set => ⟨k.known ||| m, k.value ||| m⟩
  | .clear => ⟨k.known ||| m, k.value &&& ~~~m⟩
  | .toggle => ⟨k.known, k.value ^^^ m⟩

/-- The bits of `m` are known, and all are 1. -/
def KnownByte.ones (k : KnownByte) (m : Byte) : Bool := (k.known &&& k.value &&& m) == m

/-- What software knows between two operations of a boot. -/
structure BootFacts where
  /-- What the last write left in each register byte; a half of TCNT counts on from there. -/
  byte : Reg → KnownByte
  i : Bool
  sv : Option Bool

/-- An entry state (70_reset_and_hazards.md R201): TIMSK is 0x00, TCCRA 0x00 (log entry 23), TCCRB has
0 in bits 5, 4 and 2:0, I = 0 and nothing is saved (log entry 23); nothing else is known. The reset
state is one. -/
def BootFacts.entry : BootFacts where
  byte
    | .timsk => KnownByte.exactly 0
    | .tccra => KnownByte.exactly 0
    | .tccrb => ⟨0x37, 0⟩
    | _ => KnownByte.nothing
  i := false
  sv := none

/-- The bytes with one of them replaced. -/
def BootFacts.withByte (f : BootFacts) (r : Reg) (k : KnownByte) : BootFacts :=
  { f with byte := fun r' => if r' = r then k else f.byte r' }

/-- The register takes what is written to it (20_memory.md R64). The bits that this looks at are
known in every control register, from the entry state on. -/
def bootAdmits (r : Reg) (k : KnownByte) : Bool :=
  match r with
  | .tccra => tccraAdmits k.value
  | .tccrb => tccrbAdmits k.value
  | .timsk => timskAdmits k.value
  | _ => true

/-- What a read of the register is known to give: of the counter and of TIFR nothing, since hardware
writes them. -/
def BootFacts.read (f : BootFacts) : Reg → KnownByte
  | .tcntL => KnownByte.nothing
  | .tcntH => KnownByte.nothing
  | .tifr => KnownByte.nothing
  | r => f.byte r

/-- RegWrite8 of a byte of which `k r` is known where the address names `r`; none where it faults or
is refused (20_memory.md R64). -/
def bootWrite8 (p : Params) (a : Addr) (k : Reg → KnownByte) (f : BootFacts) : Option BootFacts :=
  match p.map a with
  | some r => if bootAdmits r (k r) then some (f.withByte r (k r)) else none
  | none => none

/-- RegWrite16; none where it faults (20_memory.md R66). -/
def bootWrite16 (p : Params) (a : Addr) (v : U16) (f : BootFacts) : Option BootFacts :=
  let lo := KnownByte.exactly (loByte v)
  let hi := KnownByte.exactly (hiByte v)
  match p.wordMap a with
  | some .tcnt => some ((f.withByte .tcntL lo).withByte .tcntH hi)
  | some .ocr => some ((f.withByte .ocrL lo).withByte .ocrH hi)
  | none => none

/-- A read-modify-write, run to its end. -/
def bootRmw (p : Params) (op : Rmw) (f : BootFacts) : Option BootFacts :=
  bootWrite8 p op.a (fun r => (f.read r).apply op.kind op.m) f

/-- An operation of a boot, at the index `here` and run to its end; none where it faults or is
refused, so that the boot does not go on. The only jump of a boot is its idle loop `JMP .`
(70_reset_and_hazards.md R210). -/
def bootStep (p : Params) (here : Nat) (f : BootFacts) : Instr → Option BootFacts
  | .wr8 a v => bootWrite8 p a (fun _ => KnownByte.exactly v) f
  | .wr16 a v => bootWrite16 p a v f
  | .rd8 a => if (p.map a).isSome then some f else none
  | .rd16 a => if (p.wordMap a).isSome then some f else none
  | .setb a m => bootRmw p ⟨.set, a, m⟩ f
  | .clrb a m => bootRmw p ⟨.clear, a, m⟩ f
  | .tglb a m => bootRmw p ⟨.toggle, a, m⟩ f
  | .cli => some { f with i := false }
  | .sei => some { f with i := true }
  | .idis => some { f with i := false, sv := some f.i }
  | .irst => f.sv.map fun b => { f with i := b }
  | .reti => none
  | .jmp t => if t.toNat = here then some f else none

/-- One operation of a boot, with what is known before and after it. -/
structure BootStep where
  before : BootFacts
  op : Instr
  after : BootFacts

/-- The operations of a boot from index `here` on; none where one faults or is refused, or where one
stands after the idle loop and is never reached. -/
def bootSteps (p : Params) : Nat → BootFacts → List Instr → Option (List BootStep)
  | _, _, [] => some []
  | here, f, i :: is =>
    if i.mnemonic = .jmp ∧ is ≠ [] then none
    else
      match bootStep p here f i with
      | some g => (bootSteps p (here + 1) g is).map (⟨f, i, g⟩ :: ·)
      | none => none

/-- The address of the byte an operation writes is that of the register; of a word, either half. -/
def writesReg (p : Params) (r : Reg) : Instr → Bool
  | .wr8 a _ => p.map a == some r
  | .setb a _ => p.map a == some r
  | .clrb a _ => p.map a == some r
  | .tglb a _ => p.map a == some r
  | .wr16 a _ =>
    match p.wordMap a with
    | some .tcnt => r == .tcntL || r == .tcntH
    | some .ocr => r == .ocrL || r == .ocrH
    | none => false
  | _ => false

/-- The operation is the flag clear of 60_exceptions.md R161. -/
def clearsFlag (p : Params) : Instr → Bool
  | .wr8 a v => p.map a == some .tifr && v.getLsbD 1
  | _ => false

/-- The operation is a write of the output line: a byte write of PORT, or a read-modify-write of PORT
whose mask names OUT_BIT (70_reset_and_hazards.md R205 step 8, 00_scope.md R8). One of another bit
of PORT writes OUT_BIT back as it read it, and is no write of the line. -/
def writesLine (p : Params) (i : Instr) : Bool :=
  match i, i.rmw? with
  | .wr8 a _, _ => p.map a == some .port
  | _, some op => p.map op.a == some .port && p.outOf op.m
  | _, none => false

/-- OCIEA is known to be 1. -/
def BootFacts.sourceOn (f : BootFacts) : Bool := (f.byte .timsk).ones 0x02

/-- OCR is known to hold the threshold. -/
def BootFacts.thresholdSet (f : BootFacts) (t : U16) : Bool :=
  f.byte .ocrL == KnownByte.exactly (loByte t) && f.byte .ocrH == KnownByte.exactly (hiByte t)

/-- The operation enables the source: OCIEA is 0 before it and 1 after it, by whichever operation
writes it. -/
def BootStep.enablesSource (b : BootStep) : Bool := !b.before.sourceOn && b.after.sourceOn

/-- The operation is a global enable: I is 0 before it and 1 after it, by SEI or by IRST. -/
def BootStep.enablesGlobally (b : BootStep) : Bool := !b.before.i && b.after.i

/-- The steps before the first one that `stop` holds of. -/
def beforeFirst (stop : BootStep → Bool) (bs : List BootStep) : List BootStep :=
  bs.takeWhile fun b => !stop b

/-- O1 and O4 (70_reset_and_hazards.md R206): OCR holds the threshold and the flag has been cleared
when the source is enabled, and OCR keeps the threshold from there on. -/
def orderO1O4 (p : Params) (t : U16) (bs : List BootStep) : Bool :=
  let late := bs.dropWhile fun b => !b.enablesSource
  (beforeFirst BootStep.enablesSource bs).any (fun b => clearsFlag p b.op) &&
    late.all fun b => b.before.thresholdSet t && b.after.thresholdSet t

/-- O2 (70_reset_and_hazards.md R206): the source is enabled before every global enable. -/
def orderO2 (bs : List BootStep) : Bool :=
  bs.all fun b => !b.enablesGlobally || b.before.sourceOn

/-- O3 (70_reset_and_hazards.md R206, R209): the initial output write comes before the global enable.
It drives the line to 1, as step 8 does; it is the only write of the line; and no operation writes
any bit of PORT from the global enable on: "the main context writes it exactly once, before
interrupts are enabled". -/
def orderO3 (p : Params) (bs : List BootStep) : Bool :=
  let late := bs.dropWhile fun b => !b.enablesGlobally
  bs.countP (fun b => writesLine p b.op) == 1 &&
    (late.all fun b => (b.before.byte .port).ones p.outMask && !writesReg p .port b.op)

/-- The steps of the arm sequence have been done at the end of the list (70_reset_and_hazards.md
R205): TCNT was last written 0, OCR holds the threshold, the flag was cleared, CTC is selected and
the clock runs, the pin is an output, CLI has run, the source is enabled, the line was driven to 1,
and I = 1. -/
def armSteps (p : Params) (t : U16) (bs : List BootStep) : Bool :=
  match bs.getLast? with
  | none => false
  | some last =>
    let f := last.after
    f.byte .tcntL == KnownByte.exactly 0 && f.byte .tcntH == KnownByte.exactly 0 &&
      f.thresholdSet t && bs.any (fun b => clearsFlag p b.op) &&
      (f.byte .tccrb).ones 0x08 && clockSelect (f.byte .tccrb).value != 0 &&
      (f.byte .ddr).ones p.outMask && bs.any (fun b => b.op == .cli) &&
      f.sourceOn && (f.byte .port).ones p.outMask && f.i

/-- The order O1 to O4 is met (70_reset_and_hazards.md R206; log entry 22). -/
def armOrder (p : Params) (t : U16) (bs : List BootStep) : Bool :=
  orderO1O4 p t bs && orderO2 bs && orderO3 p bs

/-- The list is a correct boot for a threshold, from every entry state: each of its operations
completes, the steps of the arm sequence are done, and their order meets O1 to O4
(70_reset_and_hazards.md R206; log entry 22). -/
def correctBoot (p : Params) (t : U16) (is : List Instr) : Bool :=
  match bootSteps p 0 BootFacts.entry is with
  | some bs => armSteps p t bs && armOrder p t bs
  | none => false

end Sys2Proof.Machine
end

