-- ==== Sys2Proof/Laws/Boot.lean ====
section
/-! SUPPORT. What is known of a byte stays true of it through a write. -/

namespace Sys2Proof.Machine

/-- What is known of the byte is true of `v`. -/
def KnownByte.Of (k : KnownByte) (v : Byte) : Prop := v &&& k.known = k.value &&& k.known

/-- Nothing known is true of every byte. -/
theorem knownByte_nothing_of (v : Byte) : KnownByte.nothing.Of v := by
  simp [KnownByte.Of, KnownByte.nothing]

/-- A byte known whole is that byte. -/
theorem knownByte_exactly_of {v w : Byte} : (KnownByte.exactly v).Of w ↔ w = v := by
  have all : ∀ x : Byte, x &&& 0xFF = x := fun x => BitVec.and_allOnes (x := x)
  simp only [KnownByte.Of, KnownByte.exactly, all]

/-- A read-modify-write carries what is known of the byte read to the byte written. -/
theorem knownByte_apply_of {k : KnownByte} {v : Byte} (h : k.Of v) (kind : RmwKind) (m : Byte) :
    (k.apply kind m).Of (kind.apply v m) := by
  apply BitVec.eq_of_getLsbD_eq
  intro i hi
  have hb := congrArg (fun b => BitVec.getLsbD b i) h
  simp only [BitVec.getLsbD_and] at hb
  cases kind <;>
    simp only [KnownByte.apply, RmwKind.apply, BitVec.getLsbD_and, BitVec.getLsbD_or,
      BitVec.getLsbD_xor, BitVec.getLsbD_not, hi, decide_true, Bool.true_and] <;>
    revert hb <;>
    cases v.getLsbD i <;> cases k.known.getLsbD i <;> cases k.value.getLsbD i <;>
      cases m.getLsbD i <;> simp

/-- Bits known to be 1 are 1. -/
theorem knownByte_ones {k : KnownByte} {v m : Byte} (h : k.Of v) (ho : k.ones m = true) :
    v &&& m = m := by
  have ho' : k.known &&& k.value &&& m = m := by simpa [KnownByte.ones] using ho
  calc v &&& m = v &&& (k.known &&& k.value &&& m) := by rw [ho']
    _ = (v &&& k.known) &&& k.value &&& m := by simp only [BitVec.and_assoc]
    _ = k.value &&& k.known &&& k.value &&& m := by rw [h]
    _ = k.known &&& k.value &&& m := by
      rw [BitVec.and_comm k.value k.known, BitVec.and_assoc k.known, BitVec.and_self]
    _ = m := ho'

end Sys2Proof.Machine
end

