-- ==== Sys2Proof/Laws/Decode.lean ====
section
/-! SUPPORT. The fields of an encoded word, which the proofs about encodings cite instead of
unfolding the fields' bits. -/

namespace Sys2Proof

/-- The number of a word is that of its three fields, each at its place. -/
theorem fieldsWord_toNat (op : BitVec 4) (a : Addr) (k : U16) :
    (fieldsWord op a k).toNat = op.toNat * 2 ^ 28 + a.toNat * 2 ^ 16 + k.toNat := by
  have h1 := Nat.shiftLeft_add_eq_or_of_lt a.isLt op.toNat
  have h2 := Nat.shiftLeft_add_eq_or_of_lt k.isLt (op.toNat <<< 12 + a.toNat)
  rw [fieldsWord, BitVec.toNat_append, BitVec.toNat_append, ← h1, ← h2, Nat.shiftLeft_eq,
    Nat.shiftLeft_eq]
  omega

@[simp] theorem opField_fieldsWord (op : BitVec 4) (a : Addr) (k : U16) :
    opField (fieldsWord op a k) = op := by
  have := op.isLt; have := a.isLt; have := k.isLt
  apply BitVec.eq_of_toNat_eq
  simp only [opField, BitVec.extractLsb'_toNat, Nat.shiftRight_eq_div_pow, fieldsWord_toNat]
  omega

@[simp] theorem aField_fieldsWord (op : BitVec 4) (a : Addr) (k : U16) :
    aField (fieldsWord op a k) = a := by
  have := op.isLt; have := a.isLt; have := k.isLt
  apply BitVec.eq_of_toNat_eq
  simp only [aField, BitVec.extractLsb'_toNat, Nat.shiftRight_eq_div_pow, fieldsWord_toNat]
  omega

@[simp] theorem kField_fieldsWord (op : BitVec 4) (a : Addr) (k : U16) :
    kField (fieldsWord op a k) = k := by
  have := op.isLt; have := a.isLt; have := k.isLt
  apply BitVec.eq_of_toNat_eq
  simp only [kField, BitVec.extractLsb'_toNat, Nat.shiftRight_eq_div_pow, fieldsWord_toNat]
  omega

/-- A word is its three fields. -/
theorem fieldsWord_fields (w : Word) : fieldsWord (opField w) (aField w) (kField w) = w := by
  have := w.isLt
  apply BitVec.eq_of_toNat_eq
  simp only [fieldsWord_toNat, opField, aField, kField, BitVec.extractLsb'_toNat,
    Nat.shiftRight_eq_div_pow]
  omega

/-- The low byte of a zero-extended byte is that byte. -/
theorem lo_zeroExtend (v : Byte) : (v.zeroExtend 16).extractLsb' 0 8 = v := by
  have := v.isLt
  apply BitVec.eq_of_toNat_eq
  simp only [BitVec.extractLsb'_toNat, BitVec.truncate_eq_setWidth, BitVec.toNat_setWidth,
    Nat.shiftRight_eq_div_pow]
  omega

/-- The high byte of a zero-extended byte is 0. -/
theorem hi_zeroExtend (v : Byte) : (v.zeroExtend 16).extractLsb' 8 8 = 0#8 := by
  have := v.isLt
  apply BitVec.eq_of_toNat_eq
  simp only [BitVec.extractLsb'_toNat, BitVec.truncate_eq_setWidth, BitVec.toNat_setWidth,
    Nat.shiftRight_eq_div_pow, BitVec.toNat_ofNat]
  omega

/-- A half word whose high byte is 0 is its low byte, zero-extended. -/
theorem zeroExtend_lo {k : U16} (h : k.extractLsb' 8 8 = 0#8) :
    (k.extractLsb' 0 8).zeroExtend 16 = k := by
  have := k.isLt
  have h' := congrArg BitVec.toNat h
  apply BitVec.eq_of_toNat_eq
  simp only [BitVec.extractLsb'_toNat, BitVec.truncate_eq_setWidth, BitVec.toNat_setWidth,
    Nat.shiftRight_eq_div_pow, BitVec.toNat_ofNat] at h' ⊢
  omega

/-- The word of four bytes of a word is that word. -/
theorem bytesWord_bytes (w : Word) :
    bytesWord (w.extractLsb' 0 8) (w.extractLsb' 8 8) (w.extractLsb' 16 8)
      (w.extractLsb' 24 8) = w := by
  apply BitVec.eq_of_getLsbD_eq
  intro i hi
  simp only [bytesWord, BitVec.getLsbD_append, BitVec.getLsbD_extractLsb']
  rcases Nat.lt_or_ge i 8 with h | h
  · simp [h]
  rcases Nat.lt_or_ge i 16 with h2 | h2
  · simp [show ¬ i < 8 by omega, show i - 8 < 8 by omega, show 8 + (i - 8) = i by omega]
  rcases Nat.lt_or_ge i 24 with h3 | h3
  · simp [show ¬ i < 8 by omega, show ¬ i - 8 < 8 by omega, show i - 8 - 8 < 8 by omega,
      show 16 + (i - 8 - 8) = i by omega]
  · simp [show ¬ i < 8 by omega, show ¬ i - 8 < 8 by omega, show ¬ i - 8 - 8 < 8 by omega,
      show i - 8 - 8 - 8 < 8 by omega, show 24 + (i - 8 - 8 - 8) = i by omega]

end Sys2Proof
end

