-- ==== Sys2Proof/Laws/Ops.lean ====
section
/-! SUPPORT. The phases, dispatch and return, the tick and the edge, and the step: what each can do,
said once. -/

namespace Sys2Proof.Machine

open Host (Outcome)

/-! Phases. -/

@[simp] theorem thenDo_next_iff {r : Result} {f : State → State} {t : State} :
    thenDo r f = .next t ↔ ∃ u, r = .next u ∧ t = f u := by
  cases r <;> simp [thenDo, eq_comm]

@[simp] theorem thenDo_fault_iff {r : Result} {f : State → State} {e : Fault} :
    thenDo r f = .fault e ↔ r = .fault e := by
  cases r <;> simp [thenDo]

@[simp] theorem thenDo_refused_iff {r : Result} {f : State → State} {e : Refusal} :
    thenDo r f = .refused e ↔ r = .refused e := by
  cases r <;> simp [thenDo]

/-- Between operations the first phase runs. -/
theorem inPhase_first {s : State} (h : s.cur.ph = .first) (f : State → Result) :
    inPhase f s = f s := by simp [inPhase, h]

/-- Between the phases the latched write runs, whatever is decoded (40_register_access.md R100). -/
theorem exec_second {s : State} {op : Rmw} {v : Byte} (h : s.cur.ph = .second op v) (i : Instr) :
    exec i s = writePhase op v s := by
  cases i <;> simp [exec, execRd8, execRd16, execWr8, execWr16, execSetb, execClrb, execTglb,
    execCli, execSei, execIdis, execIrst, execReti, execJmp, inPhase, h]

/-- The first phase of the three read-modify-writes is one operation. -/
theorem exec_rmw_first {s : State} (h : s.cur.ph = .first) {i : Instr} {op : Rmw}
    (hi : i.rmw? = some op) : exec i s = readPhase op s := by
  cases i <;> simp only [Instr.rmw?, Option.some.injEq, reduceCtorEq] at hi <;> subst hi <;>
    simp [exec, execSetb, execClrb, execTglb, inPhase, h]

/-- The first phase latches the byte of its register and leaves all else, or faults unmapped. -/
theorem readPhase_eq (op : Rmw) (s : State) :
    readPhase op s = match s.cfg.map op.a with
      | some r => .next ((s.setDraws (s.draws + 1)).setCur
          ⟨s.cur.pc, .second op (s.regByte (Config.freeTifr s.draws) r), s.cur.d, s.cur.sv⟩)
      | none => .fault (.unmapped op.a) := by
  have hcur : (s.setDraws (s.draws + 1)).cur = s.cur := by cases h : s.ctx <;> simp [State.cur, h]
  unfold readPhase
  rw [regRead8_eq]
  cases s.cfg.map op.a with
  | none => rfl
  | some r => simp [State.onCur, hcur]

/-- The second phase completes exactly where the write stores. -/
theorem writePhase_next {op : Rmw} {v : Byte} {s t : State} :
    writePhase op v s = .next t ↔ ∃ r u, s.cfg.map op.a = some r ∧
      s.writeReg r (op.kind.apply v op.m) = .ok u ∧ t = u.advance := by
  simp only [writePhase, thenDo_next_iff, regWrite8_next]
  constructor
  · rintro ⟨u, ⟨r, hr, hu⟩, rfl⟩; exact ⟨r, u, hr, hu, rfl⟩
  · rintro ⟨r, u, hr, hu, rfl⟩; exact ⟨u, ⟨r, hr, hu⟩, rfl⟩

/-- The running record after a byte write is the one before it. -/
theorem writeReg_cur {s t : State} {r : Reg} {v : Byte} (h : s.writeReg r v = .ok t) :
    t.cur = s.cur := by
  obtain ⟨-, hc, hm, hh, -, -⟩ := writeReg_frame h
  simp [State.cur, hc, hm, hh]

/-! Dispatch and return. -/

/-- The dispatch goes to the handler afresh, or faults where none is bound. -/
theorem dispatch_eq (s : State) :
    dispatch s = match s.cfg.handlerEntry with
      | some e => .next { s with hdl := Context.fresh (Index.toPc e), i := false, ctx := .handler }
      | none => .fault .noHandler := by
  unfold dispatch
  cases s.cfg.handlerEntry <;> rfl

/-- A due dispatch is due in the main context with I set. -/
theorem dispatchDue_main {s : State} (h : s.dispatchDue = true) :
    s.ctx = .main ∧ s.i = true := by
  simp only [State.dispatchDue, Bool.and_eq_true, beq_iff_eq] at h
  exact ⟨h.1.1, h.1.2⟩

/-! The timer. -/

/-- Where the tick is no match, the counter counts. -/
theorem tick_of_not_matches {s : State} (h : s.matches = false) :
    tick s = s.setTcnt (s.tcnt + 1) := by simp [tick, h]

/-- Where the tick is a match in CTC, the counter returns to 0 and the flag is set. -/
theorem tick_of_matches_ctc {s : State} (h : s.matches = true) (hc : s.ctc = true) :
    tick s = (s.setOcfa true).setTcnt 0 := by simp [tick, h, hc]

/-- Where the tick is a match outside CTC, the counter counts and the flag is set. -/
theorem tick_of_matches {s : State} (h : s.matches = true) (hc : s.ctc = false) :
    tick s = (s.setOcfa true).setTcnt (s.tcnt + 1) := by simp [tick, h, hc]

/-- A tick writes TCNT and OCFA only. -/
theorem tick_writes (s : State) : ∃ c f, tick s = (s.setOcfa f).setTcnt c := by
  cases hm : s.matches with
  | false => exact ⟨_, s.ocfa, tick_of_not_matches hm⟩
  | true =>
    cases hc : s.ctc with
    | true => exact ⟨_, _, tick_of_matches_ctc hm hc⟩
    | false => exact ⟨_, _, tick_of_matches hm hc⟩

/-- An edge writes PSC, TCNT and OCFA only. -/
theorem clockEdge_writes (s : State) :
    ∃ c f, clockEdge s = ((s.setPsc (s.psc + 1)).setOcfa f).setTcnt c := by
  unfold clockEdge
  split
  · exact tick_writes _
  · exact ⟨s.tcnt, s.ocfa, rfl⟩

/-! The step. -/

/-- Reading the schedule writes the schedule and the count of draws only. -/
theorem takeTurn_writes (s : State) :
    ∃ sc d, (takeTurn s).2 = (s.setSched sc).setDraws d := by
  unfold takeTurn
  split
  · next who rest h => exact ⟨rest, s.draws, rfl⟩
  · next h => exact ⟨s.sched, s.draws + 1, rfl⟩

/-- What a step can do: a clock edge; a dispatch; or a phase, which fetches past the end, fetches an
illegal word, or runs the decoded operation to its end, its fault or its refusal. -/
theorem step_cases {s t u : State} {who : Agent} (h : step s = .next t)
    (hu : takeTurn s = (who, u)) :
    ((who = .clock ∨ u.stopped = true) ∧ t = clockEdge u) ∨
      (who = .cpu ∧ u.stopped = false ∧ u.dispatchDue = true ∧
        ((∃ e, u.cfg.handlerEntry = some e ∧
            t = { u with hdl := Context.fresh (Index.toPc e), i := false, ctx := .handler }) ∨
          (u.cfg.handlerEntry = none ∧ t = u.raiseFault .noHandler none))) ∨
      (who = .cpu ∧ u.stopped = false ∧ u.dispatchDue = false ∧
        ((u.fetch = none ∧ t = u.raiseFault .pcRange none) ∨
          ∃ w, u.fetch = some w ∧
            (((∃ r, decode w = .error r) ∧ t = u.raiseFault .illegal (some w)) ∨
              ∃ i, decode w = .ok i ∧
                (exec i u = .next t ∨
                  (∃ f, exec i u = .fault f ∧ t = u.raiseFault f (some w)) ∨
                  ∃ c, exec i u = .refused (.refuse c) ∧ t = u.markRefused c w)))) := by
  simp only [step, hu, agentStep] at h
  cases who with
  | clock => exact .inl ⟨.inl rfl, by simpa using h.symm⟩
  | cpu =>
    cases hs : u.stopped with
    | true => exact .inl ⟨.inr rfl, by simpa [hs] using h.symm⟩
    | false =>
      simp only [hs, Bool.false_eq_true, if_false, cpuStep] at h
      cases hd : u.dispatchDue with
      | true =>
        refine .inr (.inl ⟨rfl, rfl, rfl, ?_⟩)
        simp only [hd, if_true, dispatchStep, dispatch_eq] at h
        cases he : u.cfg.handlerEntry with
        | none => exact .inr ⟨rfl, by simpa [he] using h.symm⟩
        | some e => exact .inl ⟨e, rfl, by simpa [he] using h.symm⟩
      | false =>
        refine .inr (.inr ⟨rfl, rfl, rfl, ?_⟩)
        simp only [hd, Bool.false_eq_true, if_false, cpuPhase] at h
        cases hf : u.fetch with
        | none => exact .inl ⟨rfl, by simpa [hf] using h.symm⟩
        | some w =>
          refine .inr ⟨w, rfl, ?_⟩
          simp only [hf] at h
          cases hw : decode w with
          | error r => exact .inl ⟨⟨r, rfl⟩, by simpa [hw] using h.symm⟩
          | ok i =>
            refine .inr ⟨i, rfl, ?_⟩
            simp only [hw] at h
            cases hx : exec i u with
            | next v => exact .inl (by simpa [hx, settle] using h)
            | fault f => exact .inr (.inl ⟨f, rfl, by simpa [hx, settle] using h.symm⟩)
            | refused e =>
              cases e
              case refuse c => exact .inr (.inr ⟨c, rfl, by simpa [hx, settle] using h.symm⟩)
              all_goals simp [hx, settle] at h

end Sys2Proof.Machine
end

