-- ==== Sys2Proof/Laws/Exec.lean ====
section
/-! SUPPORT. What an operation that completes can do, said once for all thirteen: the frame of the
machine and the contexts, the registers, and the running record. -/

namespace Sys2Proof.Machine

/-- What `exec` leaves alone: the machine and the other context; the context, but for RETI; and I,
but for the interrupt-control operations in their first phase. -/
structure ExecFrame (i : Instr) (s t : State) : Prop where
  machine : SameMachine s t
  other : SameOtherContext s t
  ctx : t.ctx ≠ s.ctx → i = .reti ∧ s.ctx = .handler ∧ t.ctx = .main
  i : t.i ≠ s.i → s.cur.ph = .first ∧
    (i ∈ [.cli, .sei, .idis, .irst] ∨ (i = .reti ∧ t.i = true))

/-- A state that has the context of `s`, its I and its records, with its running record replaced, is
within the frame. -/
theorem setCur_frame {i : Instr} {s t : State} (hm : SameMachine s t) (hc : t.ctx = s.ctx)
    (h1 : t.main = s.main) (h2 : t.hdl = s.hdl) (hi : t.i = s.i) (c : Context) :
    ExecFrame i s (t.setCur c) := by
  refine ⟨⟨by simp [hm.psc], by simp [hm.fault], by simp [hm.refused], by simp [hm.cfg],
    by simp [hm.sched]⟩, ?_, fun x => absurd (by simp [hc]) x, fun x => absurd (by simp [hi]) x⟩
  cases h : s.ctx <;> simp [SameOtherContext, State.setCur, h, hc, h1, h2]

/-- The same with I written by an interrupt-control operation. -/
theorem setI_frame {i : Instr} {s : State} (hp : s.cur.ph = .first)
    (hi : i ∈ [.cli, .sei, .idis, .irst]) (b : Bool) (c : Context) :
    ExecFrame i s ((s.setI b).setCur c) := by
  refine ⟨⟨by simp, by simp, by simp, by simp, by simp⟩, ?_, fun x => absurd (by simp) x,
    fun _ => ⟨hp, .inl hi⟩⟩
  cases h : s.ctx <;> simp [SameOtherContext, State.setCur, h]

/-- The frame of a byte write that completes. -/
theorem writeReg_advance_frame {i : Instr} {s u : State} {r : Reg} {v : Byte}
    (hu : s.writeReg r v = .ok u) : ExecFrame i s u.advance := by
  obtain ⟨h1, h2, h3, h4, -, h6⟩ := writeReg_frame hu
  exact setCur_frame h6 h2 h3 h4 h1 _

/-- Every operation that completes is within the frame. -/
theorem exec_frame {i : Instr} {s t : State} (h : exec i s = .next t) : ExecFrame i s t := by
  have same : SameMachine s s := ⟨rfl, rfl, rfl, rfl, rfl⟩
  have drawn : SameMachine s (s.setDraws (s.draws + 1)) := ⟨rfl, rfl, rfl, rfl, rfl⟩
  cases hp : s.cur.ph with
  | second op v =>
    rw [exec_second hp, writePhase_next] at h
    obtain ⟨r, u, -, hu, rfl⟩ := h
    exact writeReg_advance_frame hu
  | first =>
    cases i <;> simp only [exec, execRd8, execRd16, execWr8, execWr16, execSetb, execClrb, execTglb,
      execCli, execSei, execIdis, execIrst, execReti, execJmp, inPhase_first hp, regRead8_eq,
      readPhase_eq, regRead16_eq, regWrite16_eq] at h
    case wr8 a v =>
      obtain ⟨u, hw, rfl⟩ := thenDo_next_iff.mp h
      obtain ⟨r, -, hu⟩ := regWrite8_next.mp hw
      exact writeReg_advance_frame hu
    case wr16 a v =>
      obtain ⟨u, hw, rfl⟩ := thenDo_next_iff.mp h
      have : SameMachine s u ∧ u.ctx = s.ctx ∧ u.main = s.main ∧ u.hdl = s.hdl ∧ u.i = s.i := by
        split at hw <;> [skip; split at hw] <;> cases hw <;>
          exact ⟨⟨rfl, rfl, rfl, rfl, rfl⟩, rfl, rfl, rfl, rfl⟩
      obtain ⟨h1, h2, h3, h4, h5⟩ := this
      exact setCur_frame h1 h2 h3 h4 h5 _
    case rd8 a =>
      cases hm : s.cfg.map a with
      | none => simp [hm] at h
      | some r =>
        simp only [hm, State.latch, State.advance, State.onCur, setCur_setCur,
          Host.Outcome.next.injEq] at h
        subst h
        exact setCur_frame drawn rfl rfl rfl rfl _
    case rd16 a =>
      split at h
      · cases h
        simp only [State.advance, State.latch, State.onCur, setCur_setCur]
        exact setCur_frame same rfl rfl rfl rfl _
      · cases h
    case setb | clrb | tglb =>
      split at h
      · cases h; exact setCur_frame drawn rfl rfl rfl rfl _
      · cases h
    case cli => cases h; exact setI_frame hp (by simp) _ _
    case sei =>
      split at h
      · cases h
      · cases h; exact setI_frame hp (by simp) _ _
    case idis =>
      cases h
      refine ⟨⟨?_, ?_, ?_, ?_, ?_⟩, ?_, fun x => absurd ?_ x, fun _ => ⟨hp, .inl (by simp)⟩⟩
      case refine_6 =>
        cases hc : s.ctx <;>
          simp [SameOtherContext, State.advance, State.onCur, State.setCur, hc]
      all_goals simp [State.advance, State.onCur]
    case irst =>
      split at h
      · cases h
      · split at h <;> cases h
        exact setI_frame hp (by simp) _ _
    case reti =>
      split at h
      · cases h
      · next hc =>
        cases h
        refine ⟨⟨rfl, rfl, rfl, rfl, rfl⟩, ?_, fun _ => ⟨rfl, hc, rfl⟩,
          fun _ => ⟨hp, .inr ⟨rfl, rfl⟩⟩⟩
        simp [SameOtherContext, hc, returnFromHandler]
    case jmp x => cases h; exact setCur_frame same rfl rfl rfl rfl _

/-- A byte write stays one when the operation then completes. -/
theorem WroteByte.advanced {s u : State} {r : Reg} {v : Byte} (h : WroteByte s u r v) :
    WroteByte s u.advance r v := by
  have hr : ∀ r b, RegHolds u.advance r b ↔ RegHolds u r b := by
    intro r b
    cases r <;> simp [RegHolds, State.advance, State.onCur]
  exact ⟨fun x => (hr _ _).mpr (h.stored x), by simpa [State.advance, State.onCur] using h.flag,
    fun r' x b => (h.others r' x b).trans (hr _ _).symm,
    by simpa [State.advance, State.onCur] using h.trace⟩

/-- What `exec` does to the registers: WR8 and the second phase write one byte; WR16 writes one word;
everything else leaves them. -/
theorem exec_registers {i : Instr} {s t : State} (h : exec i s = .next t) :
    (∃ a v r, s.cur.ph = .first ∧ i = .wr8 a v ∧ s.cfg.map a = some r ∧ WroteByte s t r v) ∨
      (∃ op b r, s.cur.ph = .second op b ∧ s.cfg.map op.a = some r ∧
        WroteByte s t r (op.kind.apply b op.m)) ∨
      (∃ a v, s.cur.ph = .first ∧ i = .wr16 a v ∧
        ((a = s.cfg.aTcnt ∧ t.tcnt = v ∧ t.ocr = s.ocr) ∨
          (a ≠ s.cfg.aTcnt ∧ a = s.cfg.aOcr ∧ t.ocr = v ∧ t.tcnt = s.tcnt)) ∧
        t.tccra = s.tccra ∧ t.tccrb = s.tccrb ∧ t.timsk = s.timsk ∧ t.ocfa = s.ocfa ∧
        t.ddr = s.ddr ∧ t.port = s.port ∧ t.trace = s.trace) ∨
      (s.cur.ph = .first ∧ (∀ a v, i ≠ .wr8 a v) ∧ (∀ a v, i ≠ .wr16 a v) ∧
        SameRegisters s t) := by
  cases hp : s.cur.ph with
  | second op v =>
    rw [exec_second hp, writePhase_next] at h
    obtain ⟨r, u, hr, hu, rfl⟩ := h
    exact .inr (.inl ⟨op, v, r, rfl, hr, (writeReg_wrote hu).advanced⟩)
  | first =>
    cases i <;> simp only [exec, execRd8, execRd16, execWr8, execWr16, execSetb, execClrb, execTglb,
      execCli, execSei, execIdis, execIrst, execReti, execJmp, inPhase_first hp, regRead8_eq,
      readPhase_eq, regRead16_eq, regWrite16_eq] at h
    case wr8 a v =>
      obtain ⟨u, hw, rfl⟩ := thenDo_next_iff.mp h
      obtain ⟨r, hr, hu⟩ := regWrite8_next.mp hw
      exact .inl ⟨a, v, r, rfl, rfl, hr, (writeReg_wrote hu).advanced⟩
    case wr16 a v =>
      obtain ⟨u, hw, rfl⟩ := thenDo_next_iff.mp h
      refine .inr (.inr (.inl ⟨a, v, rfl, rfl, ?_⟩))
      split at hw
      · next ha => cases hw; simp [State.advance, State.onCur, ha]
      · next ha =>
        split at hw <;> cases hw
        next hb => simp [State.advance, State.onCur, hb, hb ▸ ha]
    all_goals refine .inr (.inr (.inr ⟨rfl, by simp, by simp, ?_⟩))
    case rd8 a =>
      cases hm : s.cfg.map a with
      | none => simp [hm] at h
      | some r =>
        simp only [hm, Host.Outcome.next.injEq] at h
        subst h
        constructor <;> simp [State.advance, State.onCur, State.latch]
    all_goals
      repeat' split at h
      all_goals cases h
      all_goals
        constructor <;> first
          | rfl
          | simp [State.advance, State.onCur, State.latch]

/-- What `exec` does to the running record: a new operation with the save bit kept or I saved; the
phase latch of a read-modify-write; or the return from the handler. -/
theorem exec_cur {i : Instr} {s t : State} (h : exec i s = .next t) :
    (t.cur.ph = .first ∧ t.ctx = s.ctx ∧ (t.cur.sv = s.cur.sv ∨ t.cur.sv = some s.i)) ∨
      (∃ op r v, i.rmw? = some op ∧ s.cur.ph = .first ∧ s.cfg.map op.a = some r ∧
        t.ctx = s.ctx ∧ t.cur = ⟨s.cur.pc, .second op v, s.cur.d, s.cur.sv⟩) ∨
      (t = { s with i := true, ctx := .main } ∧ s.ctx = .handler ∧ s.cur.ph = .first) := by
  have written : ∀ {u : State} {r : Reg} {v : Byte}, s.writeReg r v = .ok u →
      u.advance.cur.ph = .first ∧ u.advance.ctx = s.ctx ∧ u.advance.cur.sv = s.cur.sv := by
    intro u r v hu
    refine ⟨?_, ?_, ?_⟩
    · simp [State.advance, State.onCur]; rfl
    · simp [State.advance, State.onCur, (writeReg_frame hu).2.1]
    · simp [State.advance, State.onCur]; rw [writeReg_cur hu]; rfl
  cases hp : s.cur.ph with
  | second op v =>
    rw [exec_second hp, writePhase_next] at h
    obtain ⟨r, u, hr, hu, rfl⟩ := h
    exact .inl ⟨(written hu).1, (written hu).2.1, .inl (written hu).2.2⟩
  | first =>
    cases i <;> simp only [exec, execRd8, execRd16, execWr8, execWr16, execSetb, execClrb, execTglb,
      execCli, execSei, execIdis, execIrst, execReti, execJmp, inPhase_first hp, regRead8_eq,
      readPhase_eq, regRead16_eq, regWrite16_eq] at h
    case wr8 a v =>
      obtain ⟨u, hw, rfl⟩ := thenDo_next_iff.mp h
      obtain ⟨r, -, hu⟩ := regWrite8_next.mp hw
      exact .inl ⟨(written hu).1, (written hu).2.1, .inl (written hu).2.2⟩
    case wr16 a v =>
      obtain ⟨u, hw, rfl⟩ := thenDo_next_iff.mp h
      refine .inl ⟨by simp [State.advance, State.onCur]; rfl, ?_, .inl ?_⟩
      all_goals
        split at hw <;> [skip; split at hw] <;> cases hw <;>
          simp [State.advance, State.onCur] <;> rfl
    case rd8 a =>
      cases hm : s.cfg.map a with
      | none => simp [hm] at h
      | some r =>
        simp only [hm, Host.Outcome.next.injEq] at h
        subst h
        exact .inl ⟨by simp [State.advance, State.onCur, State.latch]; rfl,
          by simp [State.advance, State.onCur, State.latch],
          .inl (by simp [State.advance, State.onCur, State.latch]; rfl)⟩
    case setb | clrb | tglb =>
      split at h
      · next r hr => cases h; exact .inr (.inl ⟨_, r, _, rfl, rfl, hr, by simp, by simp; rfl⟩)
      · cases h
    case reti =>
      split at h
      · cases h
      · next hc => cases h; exact .inr (.inr ⟨rfl, hc, rfl⟩)
    all_goals
      left
      repeat' split at h
      all_goals cases h
      all_goals
        refine ⟨by simp [State.advance, State.onCur, State.latch]; rfl,
          by simp [State.advance, State.onCur, State.latch], ?_⟩
        first
          | exact .inl (by simp [State.advance, State.onCur, State.latch]; rfl)
          | exact .inr (by simp [State.advance, State.onCur]; rfl)

end Sys2Proof.Machine
end

