-- ==== Sys2Proof/Laws/PerInstr.lean ====
section
/-! SUPPORT. Statements per operation. The family TableRow: the word of an operation is selected by
the row of the opcode map that has its mnemonic (30_encoding.md R86). -/

namespace Sys2Proof.Laws.TableRow

/-- The word of the operation is selected by a row with the operation's mnemonic. -/
def Statement (i : Instr) : Prop :=
  ∃ r ∈ opcodeTable, r.mnemonic = i.mnemonic ∧ r.selects (encode i) = true

/-- Masking a word masks its three fields. -/
theorem and_fieldsWord (op mo : BitVec 4) (a ma : Addr) (k mk : U16) :
    fieldsWord op a k &&& fieldsWord mo ma mk = fieldsWord (op &&& mo) (a &&& ma) (k &&& mk) := by
  apply BitVec.eq_of_getLsbD_eq
  intro i hi
  simp only [fieldsWord, BitVec.getLsbD_and, BitVec.getLsbD_append]
  split <;> [skip; split] <;> simp

/-- A row given by its fields selects a word whose fields match. -/
theorem of_fields {i : Instr} {op mo po : BitVec 4} {a ma pa : Addr} {k mk pk : U16}
    (henc : encode i = fieldsWord op a k)
    (hrow : ⟨i.mnemonic, fieldsWord po pa pk, fieldsWord mo ma mk⟩ ∈ opcodeTable)
    (ho : op &&& mo = po) (ha : a &&& ma = pa) (hk : k &&& mk = pk) : Statement i := by
  refine ⟨_, hrow, rfl, ?_⟩
  simp [OpcodeRow.selects, henc, and_fieldsWord, ho, ha, hk]

/-- A zero-extended byte has no bit above 7. -/
theorem zeroExtend_and (v : Byte) : v.zeroExtend 16 &&& 0xFF00#16 = 0#16 := by
  apply BitVec.eq_of_getLsbD_eq
  intro i hi
  rcases Nat.lt_or_ge i 8 with h | h
  · have : ∀ i < 8, (0xFF00#16).getLsbD i = false := by decide
    simp [this i h]
  · simp [BitVec.getLsbD_setWidth, BitVec.getLsbD_of_ge v i h]

theorem wr8 (a : Addr) (imm8 : Byte) : Statement (.wr8 a imm8) :=
  of_fields (mo := 0xF) (po := 1) (ma := 0) (pa := 0) (mk := 0xFF00) (pk := 0) rfl
    (by simp only [Instr.mnemonic]; decide) (by decide) (by simp) (zeroExtend_and imm8)

theorem wr16 (a : Addr) (imm16 : U16) : Statement (.wr16 a imm16) :=
  of_fields (mo := 0xF) (po := 2) (ma := 0) (pa := 0) (mk := 0) (pk := 0) rfl
    (by simp only [Instr.mnemonic]; decide) (by decide) (by simp) (by simp)

theorem rd8 (a : Addr) : Statement (.rd8 a) :=
  of_fields (mo := 0xF) (po := 3) (ma := 0) (pa := 0) (mk := 0xFFFF) (pk := 0) rfl
    (by simp only [Instr.mnemonic]; decide) (by decide) (by simp) (by decide)

theorem rd16 (a : Addr) : Statement (.rd16 a) :=
  of_fields (mo := 0xF) (po := 4) (ma := 0) (pa := 0) (mk := 0xFFFF) (pk := 0) rfl
    (by simp only [Instr.mnemonic]; decide) (by decide) (by simp) (by decide)

theorem setb (a : Addr) (m8 : Byte) : Statement (.setb a m8) :=
  of_fields (mo := 0xF) (po := 5) (ma := 0) (pa := 0) (mk := 0xFF00) (pk := 0) rfl
    (by simp only [Instr.mnemonic]; decide) (by decide) (by simp) (zeroExtend_and m8)

theorem clrb (a : Addr) (m8 : Byte) : Statement (.clrb a m8) :=
  of_fields (mo := 0xF) (po := 6) (ma := 0) (pa := 0) (mk := 0xFF00) (pk := 0) rfl
    (by simp only [Instr.mnemonic]; decide) (by decide) (by simp) (zeroExtend_and m8)

theorem tglb (a : Addr) (m8 : Byte) : Statement (.tglb a m8) :=
  of_fields (mo := 0xF) (po := 7) (ma := 0) (pa := 0) (mk := 0xFF00) (pk := 0) rfl
    (by simp only [Instr.mnemonic]; decide) (by decide) (by simp) (zeroExtend_and m8)

theorem cli : Statement .cli := ⟨⟨.cli, 0x80000000, 0xFFFFFFFF⟩, by decide, rfl, by decide⟩

theorem sei : Statement .sei := ⟨⟨.sei, 0x90000000, 0xFFFFFFFF⟩, by decide, rfl, by decide⟩

theorem idis : Statement .idis := ⟨⟨.idis, 0xA0000000, 0xFFFFFFFF⟩, by decide, rfl, by decide⟩

theorem irst : Statement .irst := ⟨⟨.irst, 0xB0000000, 0xFFFFFFFF⟩, by decide, rfl, by decide⟩

theorem reti : Statement .reti := ⟨⟨.reti, 0xC0000000, 0xFFFFFFFF⟩, by decide, rfl, by decide⟩

theorem jmp (target : Index) : Statement (.jmp target) :=
  of_fields (mo := 0xF) (po := 0xD) (ma := 0xFFF) (pa := 0) (mk := 0) (pk := 0) rfl
    (by simp only [Instr.mnemonic]; decide) (by decide) (by decide) (by simp)

end Sys2Proof.Laws.TableRow
end

