-- ==== Sys2Proof/Tests/Slice0.lean ====
section
/-! SUPPORT. The model's own tests, with expected results from spec/95_test_vectors.md, and a witness
for the hypotheses of each statement. -/

namespace Sys2Proof.Tests

open Sys2Proof.Machine

/-! Helpers. -/

/-- The reset state with a known prescaler phase. -/
def base : State := { State.reset with psc := 0 }

/-- The base state while the handler runs. -/
def firing : State := { base with ctx := .handler }

/-- The base state with main between the phases of a read-modify-write. -/
def between (op : Rmw) (v : Byte) : State :=
  { base with main := ⟨0, .second op v, none, none⟩ }

/-- The base state about to run `w` as the CPU's step. -/
def loaded (w : Word) : State := base.withWord w

/-- What a next state shows. -/
def sees {α : Type} (r : Result) (f : State → α) : Option α :=
  match r with
  | .next t => some (f t)
  | _ => none

/-- The fault an operation answers. -/
def faults (r : Result) : Option Fault :=
  match r with
  | .fault f => some f
  | _ => none

/-- The refusal an operation answers. -/
def refuses (r : Result) : Option Refusal :=
  match r with
  | .refused e => some e
  | _ => none

/-- The illegal reason of a word, none where it decodes. -/
def illegal (w : Word) : Option Illegal :=
  match decode w with
  | .error r => some r
  | .ok _ => none

/-- The operation of a word, none where it is illegal. -/
def reads (w : Word) : Option Instr :=
  match decode w with
  | .ok i => some i
  | .error _ => none

/-! Decoding: the words of 95_test_vectors.md §2.1, and one word a row written out bit by bit from
30_encoding.md R81 to R86. -/

theorem test_v_enc_1 : reads 0x10360002 = some (.wr8 0x036 0x02) := by decide
theorem test_v_enc_2 : reads 0x20883D08 = some (.wr16 0x088 0x3D08) := by decide
theorem test_v_enc_3 : reads 0x30850000 = some (.rd8 0x085) := by decide
theorem test_v_enc_4 : reads 0x40840000 = some (.rd16 0x084) := by decide
theorem test_v_enc_5 : reads 0x5081000C = some (.setb 0x081 0x0C) := by decide
theorem test_v_enc_6 : reads 0x606F0002 = some (.clrb 0x06F 0x02) := by decide
theorem test_v_enc_7 : reads 0x70250020 = some (.tglb 0x025 0x20) := by decide
theorem test_v_enc_8 : [0x80000000, 0x90000000, 0xA0000000, 0xB0000000, 0xC0000000].map reads =
    [some .cli, some .sei, some .idis, some .irst, some .reti] := by decide
theorem test_v_enc_9 : reads 0xD000000A = some (.jmp 10) := by decide
theorem test_v_enc_10_to_12 : [0x00000000, 0xFFFFFFFF, 0xE0000000].map illegal =
    [some .reservedOp, some .reservedOp, some .reservedOp] := by decide
theorem test_v_enc_13_to_17 :
    [0x10360102, 0x30360001, 0x90000001, 0x80010000, 0xD001000A].map illegal =
      [some .nonzeroField, some .nonzeroField, some .nonzeroField, some .nonzeroField,
        some .nonzeroField] := by decide
theorem test_v_enc_18 : reads 0x2FFFFFFF = some (.wr16 0xFFF 0xFFFF) := by decide
theorem test_v_enc_20 : wordBytes 0x10360002 = [0x02, 0x00, 0x36, 0x10] ∧
    bytesWord 0x02 0x00 0x36 0x10 = 0x10360002 := by decide
theorem test_bits_wr8 : reads 0b0001_101010101010_00000000_11000011 =
    some (.wr8 0xAAA 0xC3) := by decide
theorem test_bits_wr16 : reads 0b0010_100000000001_1000000000000001 =
    some (.wr16 0x801 0x8001) := by decide
theorem test_bits_jmp : reads 0b1101_000000000000_1111000011110001 =
    some (.jmp 0xF0F1) := by decide
theorem test_table_word : decodeTableWord 32 0x70250020 = some (.tglb 0x025 0x20) ∧
    decodeTableWord 32 0x10000100 = none := by decide
theorem test_encode_is_the_word : [Instr.wr8 0x036 0x02, .wr16 0x088 0x3D08, .rd8 0x085,
    .setb 0x081 0x0C, .jmp 10].map encode =
      [0x10360002, 0x20883D08, 0x30850000, 0x5081000C, 0xD000000A] := by decide

/-! Well-formedness: one ill-formed term a check. -/

theorem test_wf_standard : Params.standard.wf = true := by decide
theorem test_wf_addresses : { Params.standard with aDdr := 0x089 }.addrsDistinct = false := by decide
theorem test_wf_halves : { Params.standard with aTcnt := 0xFFF }.halvesInSpace = false := by decide
theorem test_wf_handler :
    { Params.standard with handlerEntry := some 0 }.handlerInProgram = false := by decide
theorem test_wf_imm8 : (AsmStmt.wr8 (.reg .ocrL) (.num 0x100)).wf = false := by decide
theorem test_wf_imm16 : (AsmStmt.wr16 (.wordReg .ocr) (.num 0x10000)).wf = false := by decide
theorem test_wf_address : (AsmStmt.rd8 (.num 0x1000)).wf = false := by decide
theorem test_wf_word_symbol : (AsmStmt.rd8 (.wordReg .tcnt)).wf = false := by decide
theorem test_wf_target : (AsmStmt.jmp (.num 0x10000)).wf = false := by decide

/-! Register access (95_test_vectors.md §2.2). -/

theorem test_v_ra_1 : sees (exec (.rd8 0x085) { base with tcnt := 0x3D08 })
    (fun t => (t.main.d, t.main.pc)) = some (some 0x003D, 1) := by decide
theorem test_v_ra_3 : (fun t => (t.main.d.map fun d => d.getLsbD 1, t.ocfa)) <$>
    sees (exec (.rd8 0x036) { base with ocfa := true }) id = some (some true, true) := by
  have h := tifrByte_bit1 (Config.freeTifr 0) true
  have e : ∀ v : Byte, (v.zeroExtend 16).getLsbD 1 = v.getLsbD 1 := by decide
  exact congrArg (fun b => some (some b, true)) ((e _).trans h)
theorem test_v_ra_5 : sees (exec (.rd16 0x084) { base with tcnt := 0x1234 })
    (fun t => t.main.d) = some (some 0x1234) := by decide
theorem test_v_ra_6 : faults (exec (.rd16 0x085) base) = some (.width 0x085) := by decide
theorem test_v_ra_8 : faults (exec (.rd8 0x100) base) = some (.unmapped 0x100) := by decide
theorem test_v_ra_9_11 : sees (exec (.wr8 0x036 0x02) { base with ocfa := true }) State.ocfa =
    some false ∧ sees (exec (.wr8 0x036 0xFD) { base with ocfa := true }) State.ocfa =
      some true := by decide
theorem test_v_ra_15 : sees (exec (.wr8 0x089 0x3D) { base with ocr := 0x0008 }) State.ocr =
    some 0x3D08 := by decide
theorem test_v_ra_16_17 : sees (exec (.wr8 0x025 0x20) { base with port := 0x20, ddr := 0x20 })
    (fun t => (t.port, t.trace)) = some (0x20, [⟨true, true⟩]) ∧
      sees (exec (.wr8 0x025 0x20) base) (fun t => (t.port, t.trace)) =
        some (0x20, [⟨true, false⟩]) := by decide
theorem test_v_ra_18_to_27 :
    refuses (exec (.wr8 0x080 0x40) base) = some (.refuse .control) ∧
      refuses (exec (.wr8 0x081 0x06) base) = some (.refuse .control) ∧
      refuses (exec (.wr8 0x081 0x10) base) = some (.refuse .control) ∧
      sees (exec (.wr8 0x081 0xC5) base) State.tccrb = some 0xC5 ∧
      refuses (exec (.wr8 0x06F 0x06) base) = some (.refuse .source) ∧
      sees (exec (.wr8 0x06F 0x02) base) State.timsk = some 0x02 := by decide
theorem test_v_ra_29_30 : sees (exec (.wr16 0x088 0xFFFF) base) State.ocr = some 0xFFFF ∧
    faults (exec (.wr16 0x089 1) base) = some (.width 0x089) := by decide
theorem test_v_ra_32 : sees (exec (.setb 0x081 0x0C) base) (fun t => t.main) =
    some ⟨0, .second ⟨.set, 0x081, 0x0C⟩ 0x00, none, none⟩ := by decide
theorem test_v_ra_33 : sees (exec (.setb 0x081 0x0C) (between ⟨.set, 0x081, 0x0C⟩ 0x00))
    (fun t => (t.tccrb, t.main)) = some (0x0C, ⟨1, .first, none, none⟩) := by decide
theorem test_v_ra_38 : refuses (exec (.setb 0x06F 0x01) (between ⟨.set, 0x06F, 0x01⟩ 0x00)) =
    some (.refuse .source) := by decide
theorem test_v_ra_42 : sees (exec (.clrb 0x06F 0x02)
    { between ⟨.clear, 0x06F, 0x02⟩ 0x02 with timsk := 0x02 }) State.timsk = some 0x00 := by decide
theorem test_v_ra_45 : sees (exec (.tglb 0x025 0x20)
    { between ⟨.toggle, 0x025, 0x20⟩ 0xA5 with port := 0xA5 }) State.port = some 0x85 := by decide

/-! Interrupt control and control flow (95_test_vectors.md §2.3, §2.4). -/

theorem test_v_ic_1 : sees (exec .cli { base with i := true }) (fun t => (t.i, t.main.pc)) =
    some (false, 1) := by decide
theorem test_v_ic_6 : sees (exec .sei { base with timsk := 0x02, ocfa := true })
    (fun t => (t.i, t.dispatchDue)) = some (true, true) := by decide
theorem test_v_ic_8 : refuses (exec .sei firing) = some (.refuse .nested) := by decide
theorem test_v_ic_9 : sees (exec .idis { base with i := true }) (fun t => (t.main.sv, t.i)) =
    some (some true, false) := by decide
theorem test_v_ic_12 : sees (exec .irst { base with main := ⟨0, .first, none, some true⟩ })
    (fun t => (t.i, t.main.sv)) = some (true, some true) := by decide
theorem test_v_ic_13 : faults (exec .irst base) = some .unwritten := by decide
theorem test_v_ic_17 : sees (exec .reti { firing with main := Context.fresh 10 })
    (fun t => (t.ctx, t.i, t.cur.pc)) = some (.main, true, 10) := by decide
theorem test_v_ic_18 : faults (exec .reti base) = some .retiMain := by decide
theorem test_v_cf_1 : sees (exec (.jmp 10) { base with main := Context.fresh 10 })
    (fun t => t.main.pc) = some 10 := by decide
theorem test_v_cf_3 : sees (exec (.jmp 11) { firing with hdl := Context.fresh 12 })
    (fun t => (t.hdl.pc, t.main.pc)) = some (11, 0) := by decide

/-! The step, dispatch and the timer (95_test_vectors.md §2.6, §2.7). -/

theorem test_step_runs_the_loaded_word : sees (step (State.reset.withFetchWord 32 0x20883D08))
    (fun t => (t.ocr, t.main.pc, t.fault)) = some (0x3D08, 1, none) := by decide
theorem test_step_records_the_fault : sees (step (loaded 0x40850000)) State.fault =
    some (some ⟨.width 0x085, .main, 0, some 0x40850000⟩) := by decide
theorem test_step_records_the_refusal : sees (step (loaded 0x10800040)) (fun t =>
    (t.refused, t.tccra)) = some (some ⟨.control, .main, 0, 0x10800040⟩, 0) := by decide
/-- 10_state.md R47: no wrap after index 0xFFFF, and no fetch there, however long PROGRAM is. -/
theorem test_index_never_wraps :
    sees (exec .cli { base with main := Context.fresh 0xFFFF }) (fun t => t.main.pc.toNat) =
      some 65536 ∧ ∀ ws : List Word, sees (step { base with
        sched := [.cpu], main := Context.fresh 0x10000
        cfg := { Params.standard with program := ws } }) (fun t => t.fault) =
          some (some ⟨.pcRange, .main, 0x10000, none⟩) := ⟨by decide, fun _ => rfl⟩
theorem test_v_ra_49 : sees (step { base with sched := [.cpu] }) State.fault =
    some (some ⟨.pcRange, .main, 0, none⟩) := by decide
theorem test_v_enc_illegal_fault : sees (step (loaded 0xE0000000)) State.fault =
    some (some ⟨.illegal, .main, 0, some 0xE0000000⟩) := by decide

/-- A state in which the dispatch is due, with a handler bound at index 11. -/
def due : State :=
  { base with
    i := true, timsk := 0x02, ocfa := true, sched := [.cpu]
    main := ⟨3, .second ⟨.set, 0x025, 0x20⟩ 0x00, none, some true⟩
    cfg := { Params.standard with handlerEntry := some 11, program := List.replicate 14 0 } }

theorem test_v_arb_1 : sees (step due) (fun t => (t.ctx, t.i, t.hdl, t.ocfa, t.main)) =
    some (.handler, false, ⟨11, .first, none, none⟩, true, due.main) := by decide
theorem test_v_arb_2 : sees (step { due with cfg := Params.standard }) State.fault =
    some (some ⟨.noHandler, .main, 3, none⟩) := by decide
theorem test_v_tm_2 : (fun t : State => (t.tcnt, t.ocfa))
    (tick { base with tccrb := 0x09, ocr := 3, tcnt := 3 }) = (0, true) := by decide
theorem test_v_tm_6 : (fun t : State => (t.tcnt, t.ocfa))
    (tick { base with tccrb := 0x01, ocr := 0xFFFF, tcnt := 0xFFFF }) = (0, true) := by decide
theorem test_v_tm_7 : (fun t : State => (t.tcnt, t.ocfa))
    (tick { base with tccrb := 0x01, ocr := 5, tcnt := 5 }) = (6, true) := by decide
theorem test_v_tm_13 : { base with tccrb := 0x04, psc := 255 }.edgeTicks = true ∧
    { base with tccrb := 0x04, psc := 254 }.edgeTicks = false := by decide
theorem test_v_tm_14 : (fun t : State => (t.psc, t.tcnt))
    (clockEdge { base with tccrb := 0x05, psc := 1023, ocr := 7 }) = (0, 1) := by decide
/-- A state with a fault recorded and the counter running at divisor 1. -/
def stuck : State :=
  { base with
    tccrb := 0x01, ocr := 9, sched := [.cpu], fault := some ⟨.illegal, .main, 0, some 0⟩ }

theorem test_v_tm_18 : sees (step stuck) State.tcnt = some 1 := by decide

/-! Configuration (95_test_vectors.md §2.5). -/

/-- The threshold, or the error. -/
def cfgOf (r : Except ConfigError U16) : ConfigError ⊕ Nat :=
  match r with
  | .ok t => .inr t.toNat
  | .error e => .inl e

theorem test_v_cfg_ok : (cfgOf (configurePeriod false 1000 4000000 256),
    cfgOf (configurePeriod false 1 1664000 256), cfgOf (configurePeriod false 1 500 1),
    cfgOf (configurePeriod false 1000 16777216 256)) =
      (.inr 15624, .inr 6, .inr 0, .inr 65535) := by decide
theorem test_v_cfg_errors : (cfgOf (configurePeriod true 1 4000000 256),
    cfgOf (configurePeriod false 1 499 1), cfgOf (configurePeriod false 1000 16777472 256),
    cfgOf (configurePeriod false 1 3 2), cfgOf (configurePeriod false 1000 0 256)) =
      (.inl .inexact, .inl .underflow, .inl .overflow, .inl .prescaler, .inl .zero) := by decide

/-! The arm sequence and the handler contract (95_test_vectors.md P1), and the assembler. -/

theorem test_p1_arm : (armSequence Params.standard 15624).map encode =
    [0x20840000, 0x10880008, 0x1089003D, 0x10360002, 0x5081000C, 0x50240020, 0x80000000,
      0x506F0002, 0x50250020, 0x90000000, 0xD000000A] ∧
      correctBoot Params.standard 15624 (armSequence Params.standard 15624) = true := by decide
theorem test_p1_handler : (handlerContract Params.standard).map encode =
    [0x70250020, 0x10360002, 0xC0000000] := by decide
/-- A boot from its parts (70_reset_and_hazards.md R205): steps 1 to 3, step 4, step 7, steps 8 and
9, with the others at the start. -/
def bootOf (known clock source output : List Instr) : Bool :=
  correctBoot Params.standard 15624
    ([.wr16 0x084 0, .cli, .setb 0x024 0x20] ++ known ++ clock ++ source ++ output)

/-- Steps 1 to 3. -/
def knownState : List Instr := [.wr16 0x088 15624, .wr8 0x036 0x02]

/-- R206: orders and forms that meet O1 to O4: the canonical one, the source enabled by a TGLB, the
line driven first with another bit of PORT, OCR written by CLRB and SETB, and an IDIS and IRST. -/
theorem test_boot_accepted :
    bootOf knownState [.setb 0x081 0x0C] [.setb 0x06F 0x02] [.setb 0x025 0x20, .sei] = true ∧
    bootOf knownState [.wr8 0x081 0x0B] [.tglb 0x06F 0x02] [.wr8 0x025 0x20, .sei, .jmp 9] = true ∧
    bootOf [.setb 0x025 0x20, .setb 0x025 0x01] [.setb 0x081 0x0C]
      (knownState ++ [.wr8 0x06F 0x02]) [.sei] = true ∧
    bootOf [.clrb 0x088 0xF7, .setb 0x088 0x08, .wr8 0x089 0x3D, .wr8 0x036 0xFF]
      [.setb 0x081 0x0C] [.setb 0x06F 0x02] [.setb 0x025 0x20, .idis, .irst, .sei] = true := by
  decide

/-- R206, O1 and O4: no threshold written, another one, one that is written late, an enable by TGLB
that comes first, and no flag clear by a plain write. -/
theorem test_boot_o1_o4 :
    [[.setb 0x088 0x00, .setb 0x089 0x00, .wr8 0x036 0x02], [.wr16 0x088 0, .wr8 0x036 0x02],
      [.wr16 0x088 15624, .setb 0x036 0x02], [.wr16 0x088 15624],
      .tglb 0x06F 0x02 :: knownState ++ [.clrb 0x06F 0x02]].map (fun known =>
        bootOf known [.setb 0x081 0x0C] [.setb 0x06F 0x02] [.setb 0x025 0x20, .sei]) =
      List.replicate 5 false ∧
    bootOf knownState [.setb 0x081 0x0C] [.setb 0x06F 0x02, .wr16 0x088 15624, .wr16 0x088 0]
      [.setb 0x025 0x20, .sei] = false := by decide

/-- R206, O2 and O3: the source enabled after SEI or not at all, and the line driven after SEI,
driven twice, driven low, or only beside another bit of PORT. -/
theorem test_boot_o2_o3 :
    bootOf knownState [.setb 0x081 0x0C] [] [.setb 0x025 0x20, .sei, .setb 0x06F 0x02] = false ∧
    bootOf knownState [.setb 0x081 0x0C] [.setb 0x06F 0x02, .tglb 0x06F 0x02]
      [.setb 0x025 0x20, .sei] = false ∧
    [[.sei, .setb 0x025 0x20], [.setb 0x025 0x01, .sei, .setb 0x025 0x20],
      [.setb 0x025 0x20, .sei, .setb 0x025 0x20], [.wr8 0x025 0x00, .sei], [.tglb 0x025 0x20, .sei],
      [.setb 0x025 0x20, .sei, .setb 0x025 0x01], [.setb 0x025 0x01, .sei]].map
        (bootOf knownState [.setb 0x081 0x0C] [.setb 0x06F 0x02]) = List.replicate 7 false := by
  decide

/-- R205: step 4 refused, without CTC or without a clock; and a jump that is not the idle loop. -/
theorem test_boot_steps :
    [[.wr8 0x081 0x0F], [.setb 0x081 0x0E], [.wr8 0x081 0x04], [.setb 0x081 0x04],
      [.wr8 0x081 0x08], [], [.jmp 0]].map (fun clock => bootOf knownState clock [.setb 0x06F 0x02]
        [.setb 0x025 0x20, .sei]) = List.replicate 7 false := by decide

/-- The line of a text, none where it is rejected. -/
def lineOf (text : String) : Option AsmLine :=
  match readLine text.toList with
  | .ok l => some l
  | .error _ => none

theorem test_asm_line : lineOf "isr: TGLB PORT, 1<<5 | 0x01 ; toggle" =
    some ⟨some "isr", some (.tglb (.reg .port) (.or (.oneShl 5) (.num 1)))⟩ := by decide
theorem test_asm_idle : lineOf "IDLE" = some ⟨none, some .idle⟩ ∧
    lineOf "  JMP ." = some ⟨none, some (.jmp .here)⟩ ∧ lineOf "JMP" = none := by decide

/-- The words of a text, none where it is rejected. -/
def wordsOf (ls : List AsmLine) : Option (List Word) :=
  match assemble Params.standard ls with
  | .ok ws => some ws
  | .error _ => none

theorem test_asm_words : wordsOf
    [⟨none, some (.wr16lh .ocr (.num 15624))⟩, ⟨none, some .clrf⟩,
      ⟨some "idle", some (.jmp (.label "idle"))⟩, ⟨some "isr", some .togl⟩] =
    some [0x10880008, 0x1089003D, 0x10360002, 0xD0000003, 0x70250020] := by decide
theorem test_asm_range : wordsOf [⟨none, some (.wr8 (.reg .ocrL) (.num 256))⟩] = none := by decide

/-! NoOverrun and its timed condition (70_reset_and_hazards.md R214). -/

theorem test_overrun : Waiting.dispatch.after .matched = none ∧
    Waiting.clear.after .matched = none ∧ Waiting.clear.after .cleared = some .nothing := by decide
theorem test_deadline : meetsDeadline 100 15624 256 = true ∧ meetsDeadline 1 0 1 = false := by decide

/-! Witnesses: for each statement with hypotheses, values that meet all of them, one for each case
of the statement, at the ends of its ranges. -/

/-- The premises of a step that runs a fetched word. -/
def Runs (s t : State) (w : Word) : Prop :=
  takeTurn s = (.cpu, t) ∧ t.stopped = false ∧ t.dispatchDue = false ∧
    t.cur.pc.toNat < 0x10000 ∧ t.cfg.program[t.cur.pc.toNat]? = some w

/-- The state of the step that runs a loaded word. -/
def running (w : Word) : State := (loaded w).setSched []

theorem test_witness_runs : ∀ w, Runs (loaded w) (running w) w := fun _ =>
  ⟨rfl, rfl, rfl, show 0 < 0x10000 by decide, rfl⟩

/-- The base state with the handler running between the phases of a read-modify-write. -/
def firingBetween (op : Rmw) (v : Byte) : State :=
  { firing with hdl := ⟨0, .second op v, none, none⟩ }

/-- A state that the handler's word runs in. -/
def firingAt (w : Word) : State := firing.withWord w

/-- `EncodeOfDecodeIsTheWord`, and `IllegalWordFaults` by the cases of its first part, each at the
smallest word outside the row. -/
theorem test_witness_illegal_words :
    [0x0FFFFFFF, 0xE0000000, 0xF0000000, 0x10000100, 0x50000100, 0x60000100, 0x70000100,
      0x30000001, 0x40000001, 0x80000001, 0x90010000, 0xA0000001, 0xB0010000, 0xC0000001,
      0xD0010000].map illegal = List.replicate 3 (some .reservedOp) ++
        List.replicate 12 (some .nonzeroField) ∧
    [0x1FFF00FF, 0x2FFFFFFF, 0x3FFF0000, 0x4FFF0000, 0xD000FFFF].map reads =
      [some (.wr8 0xFFF 0xFF), some (.wr16 0xFFF 0xFFFF), some (.rd8 0xFFF), some (.rd16 0xFFF),
        some (.jmp 0xFFFF)] := by decide

/-- `WordSelectsExactlyItsRow`: a word that a row selects, and one that it does not. -/
theorem test_witness_row : (0x10360002 : Word) &&& 0xF000FF00 = 0x10000000 ∧
    (0x10360102 : Word) &&& 0xF000FF00 ≠ 0x10000000 := by decide

/-- `IllegalWordFaults`, its step. -/
theorem test_witness_illegal_step : Runs (loaded 0xE0000000) (running 0xE0000000) 0xE0000000 ∧
    decode 0xE0000000 = .error .reservedOp := ⟨test_witness_runs _, rfl⟩

/-- `StepRunsTheDecodedOperation`: a schedule, and an operation that goes on, one that faults and one
that is refused. -/
theorem test_witness_step_runs : (loaded 0x80000000).sched = [.cpu] ∧
    Runs (loaded 0x80000000) (running 0x80000000) 0x80000000 ∧
    decode 0x80000000 = .ok .cli ∧ (sees (exec .cli (running 0x80000000)) State.i).isSome = true ∧
    decode 0x30000000 = .ok (.rd8 0) ∧
    exec (.rd8 0) (running 0x30000000) = .fault (.unmapped 0) ∧
    decode 0x10800001 = .ok (.wr8 0x080 0x01) ∧
    exec (.wr8 0x080 0x01) (running 0x10800001) = .refused (.refuse .control) :=
  ⟨rfl, test_witness_runs _, rfl, rfl, rfl, rfl, rfl, rfl⟩

/-- `FetchPastTheEndFaults`: at the end of PROGRAM exactly, and past the last index. -/
theorem test_witness_past_the_end : ∃ s t : State, takeTurn s = (.cpu, t) ∧ t.stopped = false ∧
    t.dispatchDue = false ∧ t.cfg.program.length = 1 ∧ t.cur.pc.toNat = 1 ∧
    { t with main := Context.fresh 0x10000 }.cur.pc.toNat = 0x10000 :=
  ⟨{ running 0 with sched := [.cpu], main := Context.fresh 1 },
    { running 0 with main := Context.fresh 1 }, rfl, rfl, rfl, rfl, rfl, rfl⟩

/-- `IndexCountsUpAndNeverWraps`: each kind of operation at the last index, and a step by which the
index of each context falls. -/
theorem test_witness_index :
    let last := { base with main := Context.fresh 0xFFFF }
    [exec .cli last, exec (.jmp 0) last, exec (.tglb 0x025 0x20) last,
      exec (.tglb 0x025 0x20)
        { base with main := ⟨0xFFFF, .second ⟨.toggle, 0x025, 0x20⟩ 0x00, none, none⟩ }].map
          (fun r => sees r fun t => t.main.pc.toNat) =
        [some 65536, some 0, some 65535, some 65536] ∧
      sees (exec .reti { firing with hdl := Context.fresh 0xFFFF }) (fun t => t.hdl.pc.toNat) =
        some 65535 ∧
      sees (step ({ base with main := Context.fresh 1 }.withWord 0xD0000000)) (fun t => t.main.pc) =
        some 0 ∧
      sees (step ({ firing with hdl := Context.fresh 1 }.withWord 0xD0000000)) (fun t => t.hdl.pc) =
        some 0 ∧
      sees (step { due with hdl := Context.fresh 12 }) (fun t => t.hdl.pc) = some 11 := by decide

/-- `StoppedCpuNeverMoves`: each of the two marks. -/
theorem test_witness_stopped : stuck.stopped = true ∧
    { base with refused := some ⟨.source, .main, 0, 0⟩ }.stopped = true := by decide

/-- `ParametersNeverChange` and the whole-machine statements over a step: one that goes on. -/
theorem test_witness_step : ∃ t, step due = .next t := ⟨_, rfl⟩

/-- `DispatchDueIsTheFourConditions`: due, and not due with one condition missing. -/
theorem test_witness_due : due.dispatchDue = true ∧ { due with i := false }.dispatchDue = false ∧
    { due with timsk := 0xFD }.dispatchDue = false ∧
    { due with ocfa := false }.dispatchDue = false ∧
    { due with ctx := .handler }.dispatchDue = false := by decide

/-- `DueDispatchIsTaken`: HANDLER_ENTRY bound, and unbound. -/
theorem test_witness_dispatch : takeTurn due = (.cpu, due.setSched []) ∧
    (due.setSched []).stopped = false ∧ (due.setSched []).dispatchDue = true ∧
    (due.setSched []).cfg.handlerEntry = some 11 ∧
    takeTurn { due with cfg := Params.standard } =
      (.cpu, { due with cfg := Params.standard, sched := [] }) ∧
    { due with cfg := Params.standard, sched := [] }.dispatchDue = true ∧
    { due with cfg := Params.standard, sched := [] }.cfg.handlerEntry = none :=
  ⟨rfl, rfl, rfl, rfl, rfl, rfl, rfl⟩

/-- `OnlyDispatchAndRetiChangeTheContext` and `OnlyTheseOperationsWriteI`: a dispatch, a RETI, and the
four operations that write I. -/
theorem test_witness_context_and_i :
    sees (step due) (fun t => (t.ctx, t.i)) = some (.handler, false) ∧
    sees (step (firingAt 0xC0000000)) (fun t => (t.ctx, t.i)) = some (.main, true) ∧
    sees (step { loaded 0x80000000 with i := true }) State.i = some false ∧
    sees (step (loaded 0x90000000)) State.i = some true ∧
    sees (step { loaded 0xA0000000 with i := true }) State.i = some false ∧
    sees (step { loaded 0xB0000000 with main := ⟨0, .first, none, some true⟩ }) State.i =
      some true := by decide

/-- `HandlerNeverWritesMain`: a step in the handler, and a step of main that writes the handler's
record. -/
theorem test_witness_contexts : (firingAt 0xD0000005).ctx = .handler ∧
    sees (step (firingAt 0xD0000005)) (fun t => t.hdl.pc) = some 5 ∧ due.ctx = .main ∧
    sees (step due) (fun t => decide (t.hdl = due.hdl)) = some false := by decide

/-- `FlagFollowsItsStateMachine`: a match of the clock, a match while stopped, a clear by WR8, a clear
by the second phase of SETB, and a step that is neither. -/
theorem test_witness_flag :
    (takeTurn { base with tccrb := 0x09, sched := [.clock] }).1 = .clock ∧
    { base with tccrb := 0x09 }.edgeTicks = true ∧ base.tcnt = base.ocr ∧
    { stuck with tcnt := 9 }.edgeTicks = true ∧ { stuck with tcnt := 9 }.tcnt = stuck.ocr ∧
    (running 0x10360002).byteWritten = some (0x036, 0x02) ∧
    Params.standard.map 0x036 = some .tifr ∧ (0x02 : Byte).getLsbD 1 = true ∧
    { running 0x50360002 with main := ⟨0, .second ⟨.set, 0x036, 0x02⟩ 0x00, none, none⟩ }.byteWritten =
      some (0x036, 0x02) ∧
    (running 0x10360000).byteWritten = some (0x036, 0x00) ∧ (0x00 : Byte).getLsbD 1 = false ∧
    (running 0x80000000).byteWritten = none := by decide

/-- `LineChangesOnlyByPortWrites`: a write of PORT, and each kind of step that is none. -/
theorem test_witness_line : (running 0x10250020).byteWritten = some (0x025, 0x20) ∧
    Params.standard.map 0x025 = some .port ∧
    (running 0x10240020).byteWritten = some (0x024, 0x20) ∧
    Params.standard.map 0x024 ≠ some .port ∧ (running 0x80000000).byteWritten = none ∧
    due.dispatchDue = true ∧ stuck.stopped = true := by decide

/-- `HardwareNeverWritesTheSoftwareRegisters`: a clock edge, a stopped CPU and a dispatch. -/
theorem test_witness_hardware : (takeTurn { base with sched := [.clock] }).1 = .clock ∧
    (∃ t, step { base with sched := [.clock] } = .next t) ∧ stuck.stopped = true ∧
    (∃ t, step stuck = .next t) ∧ due.dispatchDue = true ∧ ∃ t, step due = .next t :=
  ⟨rfl, ⟨_, rfl⟩, rfl, ⟨_, rfl⟩, rfl, ⟨_, rfl⟩⟩

/-- A state that has the invariant with everything in it at work: CTC at divisor 256, the handler
between the phases of a TGLB of PORT, main between those of a SETB, a saved 0, and a trace. -/
def busy : State :=
  { base with
    tccrb := 0x0C, timsk := 0x02, ocfa := true, port := 0x20, ddr := 0x20
    trace := [⟨true, true⟩], ctx := .handler, sched := [.cpu]
    main := ⟨0, .second ⟨.set, 0x025, 0x20⟩ 0x00, none, some true⟩
    hdl := ⟨1, .second ⟨.toggle, 0x025, 0x20⟩ 0x20, some 0, some false⟩
    cfg := { Params.standard with program := [0x50250020, 0x70250020], handlerEntry := some 1 } }

/-- `EveryStepKeepsTheInvariant`. -/
theorem test_witness_inv : busy.Inv ∧ busy.cfg.wf = true ∧ ∃ t, step busy = .next t :=
  ⟨⟨by decide, by decide, by decide, by decide, by decide, by decide, by decide⟩, by decide,
    ⟨_, rfl⟩⟩

/-- Two states that differ only in what `DrawnBitsReachNoOtherState` lets differ: the drawn bits of
a latched byte of TIFR, a data latch and the count of draws. -/
theorem test_witness_drawn :
    let s := { between ⟨.set, 0x036, 0x00⟩ 0x02 with draws := 7 }
    let t := { between ⟨.set, 0x036, 0x00⟩ 0x27 with
      hdl := ⟨0, .first, some 5, none⟩ }
    SameRegisters s t ∧ SameMachine s t ∧ t.i = s.i ∧ t.ctx = s.ctx ∧
      s.cfg.map 0x036 = some .tifr ∧ (0x02 : Byte) &&& 0xDA = 0x27 &&& 0xDA ∧
      s.main.ph ≠ t.main.ph ∧ s.hdl.ph = t.hdl.ph ∧ ∃ s', agentStep .cpu s = .next s' :=
  ⟨⟨rfl, rfl, rfl, rfl, rfl, rfl, rfl, rfl, rfl⟩, ⟨rfl, rfl, rfl, rfl, rfl⟩, rfl, rfl, by decide,
    by decide, by decide, rfl, ⟨_, rfl⟩⟩

/-- The reads, the writes and `UnmappedAddressesFault`: a state between operations, each of the ten
addresses, and unmapped ones at the ends and beside the mapped ones. -/
theorem test_witness_addresses : base.cur.ph = .first ∧ firing.cur.ph = .first ∧
    base.cfg.wf = true ∧
    [0x084, 0x085, 0x088, 0x089, 0x080, 0x081, 0x06F, 0x036, 0x024, 0x025].map base.cfg.map =
      Reg.all.map some ∧
    [0x000, 0x023, 0x026, 0x035, 0x037, 0x06E, 0x070, 0x07F, 0x082, 0x083, 0x086, 0x087, 0x08A,
      0xFFF].map base.cfg.map = List.replicate 14 none ∧
    (between ⟨.clear, 0x08A, 0x01⟩ 0x00).cur.ph = .second ⟨.clear, 0x08A, 0x01⟩ 0x00 ∧
    (Instr.clrb 0x08A 0x01).rmw? = some ⟨.clear, 0x08A, 0x01⟩ := by decide

/-- `Wr8WritesTheByte`: values at the ends of what a control register takes, and the first it does
not. -/
theorem test_witness_values : refusalOf .tccra 0x00 = none ∧ refusalOf .tccra 0x01 = some .control ∧
    refusalOf .tccra 0x80 = some .control ∧ refusalOf .tccrb 0x05 = none ∧
    refusalOf .tccrb 0xCD = none ∧ refusalOf .tccrb 0x06 = some .control ∧
    refusalOf .tccrb 0x07 = some .control ∧ refusalOf .tccrb 0x10 = some .control ∧
    refusalOf .tccrb 0x20 = some .control ∧ refusalOf .timsk 0x02 = none ∧
    refusalOf .timsk 0x01 = some .source ∧ refusalOf .timsk 0x04 = some .source ∧
    refusalOf .tifr 0xFF = none ∧ refusalOf .port 0xFF = none := by decide

/-- `UnadmittedRmwValuesAreRefused`: each of the three registers. -/
theorem test_witness_rmw_refused :
    (Instr.setb 0x080 0x01).rmw? = some ⟨.set, 0x080, 0x01⟩ ∧
    (between ⟨.set, 0x080, 0x01⟩ 0x00).cur.ph = .second ⟨.set, 0x080, 0x01⟩ 0x00 ∧
    base.cfg.map 0x080 = some .tccra ∧
    refusalOf .tccra (RmwKind.set.apply 0x00 0x01) = some .control ∧
    refusalOf .tccrb (RmwKind.toggle.apply 0x05 0x03) = some .control ∧
    refusalOf .timsk (RmwKind.set.apply 0x02 0x04) = some .source := by decide

/-- `FlagClearIsIdempotent`: the flag clear with OCFA = 0, and a 0 in bit 1 with OCFA = 1. -/
theorem test_witness_flag_clear : base.cur.ph = .first ∧ base.cfg.map 0x036 = some .tifr ∧
    base.ocfa = false ∧ { base with ocfa := true }.cur.ph = .first ∧
    (0xFD : Byte).getLsbD 1 = false := by decide

/-- `WordWriteIsLowThenHighByte`: both words. -/
theorem test_witness_word : base.cfg.wf = true ∧ base.cfg.aTcnt = 0x084 ∧ base.cfg.aOcr = 0x088 := by
  decide

/-- The phases of the read-modify-writes, at a register with and one without a check. -/
theorem test_witness_phases :
    (Instr.setb 0x081 0x0C).rmw? = some ⟨.set, 0x081, 0x0C⟩ ∧ base.cur.ph = .first ∧
    base.cfg.map 0x081 = some .tccrb ∧
    (between ⟨.set, 0x081, 0x0C⟩ 0x00).cur.ph = .second ⟨.set, 0x081, 0x0C⟩ 0x00 ∧
    refusalOf .tccrb (0x00 ||| 0x0C) = none ∧
    (firingBetween ⟨.clear, 0x06F, 0x02⟩ 0x02).cur.ph = .second ⟨.clear, 0x06F, 0x02⟩ 0x02 ∧
    base.cfg.map 0x06F = some .timsk ∧ refusalOf .timsk (0x02 &&& ~~~0x02) = none ∧
    (between ⟨.toggle, 0x025, 0x20⟩ 0xA5).cur.ph = .second ⟨.toggle, 0x025, 0x20⟩ 0xA5 ∧
    base.cfg.map 0x025 = some .port ∧ refusalOf .port (0xA5 ^^^ 0x20) = none := by decide

/-- `RmwOnTheFlagRegister` and `TwoTogglesRestoreThePort`. -/
theorem test_witness_rmw_pairs : { base with ocfa := true }.cur.ph = .first ∧
    { base with ocfa := true }.cfg.map 0x036 = some .tifr ∧ { base with ocfa := true }.ocfa = true ∧
    base.cur.ph = .first ∧ base.cfg.map 0x025 = some .port := by decide

/-- `SeiEnablesInMainOnly` and `RetiReturnsToMain`: both contexts, and a match pending and enabled. -/
theorem test_witness_sei_reti : base.cur.ph = .first ∧ base.ctx = .main ∧
    firing.cur.ph = .first ∧ firing.ctx = .handler ∧
    { base with timsk := 0x02, ocfa := true }.timsk.getLsbD 1 = true ∧
    { firing with timsk := 0x02, ocfa := true }.ctx = .handler := by decide

/-- `IrstRestores`: nothing saved; an IDIS in the handler; each saved bit in main; each saved bit in the handler. -/
theorem test_witness_irst : base.cur.sv = none ∧ firing.i = false ∧
    (sees (exec .idis firing) State.i).isSome = true ∧
    { base with main := ⟨0, .first, none, some true⟩ }.cur.sv = some true ∧
    { base with main := ⟨0, .first, none, some false⟩ }.cur.sv = some false ∧
    { firing with hdl := ⟨0, .first, none, some true⟩ }.cur.sv = some true ∧
    { firing with hdl := ⟨0, .first, none, some false⟩ }.cur.sv = some false := by decide

/-- `JmpSetsThePc`: a target at the end of PROGRAM exactly, and the step after it. -/
theorem test_witness_jmp : ∃ s t u : State, s.cur.ph = .first ∧ s.cfg.program.length = 1 ∧
    exec (.jmp 1) s = .next t ∧ takeTurn t = (.cpu, u) ∧ u.stopped = false ∧
    u.dispatchDue = false :=
  ⟨loaded 0xD0000001, _, _, rfl, rfl, rfl, rfl, rfl, rfl⟩

/-- `NonStoringOperationsLeaveTheRegisters`: each operation completes somewhere. -/
theorem test_witness_non_storing :
    [exec (.rd8 0x036) base, exec (.rd16 0x088) base, exec .cli base, exec .sei base,
      exec .idis base, exec .irst { base with main := ⟨0, .first, none, some true⟩ },
      exec .reti firing, exec (.jmp 0xFFFF) base].map (fun r => (sees r State.cfg).isSome) =
      List.replicate 8 true := by decide

/-- `StoringOperationsLeaveTheOtherBytes`: each of its four forms. -/
theorem test_witness_storing : base.cfg.wf = true ∧
    [exec (.wr8 0x025 0xFF) base, exec (.wr16 0x088 0xFFFF) base, exec (.tglb 0x036 0xFF) base,
      exec (.tglb 0x025 0xFF) (between ⟨.toggle, 0x025, 0xFF⟩ 0x00)].map
        (fun r => (sees r State.cfg).isSome) = List.replicate 4 true ∧
    (Instr.tglb 0x025 0xFF).rmw? = some ⟨.toggle, 0x025, 0xFF⟩ := by decide

/-- The timer's statements: CTC with TCNT at the threshold and at 0, and with threshold 0; Normal;
a threshold below the counter by 1 and by the most; CS = 000; and each divisor. -/
theorem test_witness_timer :
    { base with tccrb := 0x0C, ocr := 15624, tcnt := 15624 }.ctc = true ∧
    { base with tccrb := 0x08 }.ctc = true ∧ base.tcnt.toNat ≤ base.ocr.toNat ∧
    { base with tccrb := 0xC5 }.normal = true ∧
    { base with tcnt := 1 }.ocr.toNat < { base with tcnt := 1 }.tcnt.toNat ∧
    { base with tcnt := 0xFFFF }.ocr.toNat < { base with tcnt := 0xFFFF }.tcnt.toNat ∧
    (0xC8 : Byte) &&& 7 = 0 ∧
    [0x01, 0x02, 0x03, 0x04, 0x05].map (fun b : Byte => divisor (clockSelect b)) =
      [some 1, some 8, some 64, some 256, some 1024] := by decide

/-- `ClockEdgeDividesTheClock`: a step that is the clock's, one that is the CPU's, and the longest
wait for a tick. -/
theorem test_witness_clock : takeTurn { base with sched := [.clock] } = (.clock, base) ∧
    (({ base with tccrb := 0xCD }.tccrb &&& 7).toNat = 5) ∧
    (takeTurn (loaded 0x80000000)).1 = .cpu ∧ (loaded 0x80000000).stopped = false ∧
    (∃ t, step (loaded 0x80000000) = .next t) ∧
    divisor (clockSelect { base with tccrb := 0x05 }.tccrb) = some 1024 ∧ base.psc = 0 :=
  ⟨rfl, rfl, rfl, rfl, ⟨_, rfl⟩, rfl, rfl⟩

/-- `OnlyNormalAndCtcOccur`: both modes. -/
theorem test_witness_modes : { base with tccrb := 0x05 }.legalControls = true ∧
    { base with tccrb := 0xCD }.legalControls = true ∧ (0x05 : Byte).getLsbD 3 = false ∧
    (0xCD : Byte).getLsbD 3 = true := by decide

/-- `ExactQuotientGivesTheExactPeriod`: the ends of the range of thresholds. -/
theorem test_witness_exact : configurePeriod true 1 1000 1 = .ok 0 ∧ 1000 * 1 ∣ 1000 * 1 ∧
    configurePeriod true 1000 16777216 256 = .ok 65535 ∧ 1000 * 256 ∣ 16777216 * 1000 :=
  ⟨rfl, by decide, rfl, by decide⟩

/-- `AssemblerExpandsAndRejects`: a rejected line, an index and an immediate at their ends, and a text
that assembles. -/
theorem test_witness_assembler : (AsmStmt.wr8 (.reg .ocrL) (.num 0x100)).wf = false ∧
    0xFFFF < 0x10000 ∧ (AsmImm.num 65535).value < 65536 ∧
    ∃ ws, assemble Params.standard [⟨none, some .idle⟩, ⟨none, some .clrf⟩] = .ok ws :=
  ⟨by decide, by decide, by decide, ⟨_, rfl⟩⟩

end Sys2Proof.Tests
end

/-! SUPPORT. The whole-machine rules of the state (10_state.md R22, R38, R41, R44): what changes the
context, I, the line and the software registers. -/

namespace Sys2Proof.Machine

/-! The step, read coarsely. -/

/-- The state in which the agent moves is the one before the step, but for the schedule and the count
of draws. -/
theorem takeTurn_eq {s u : State} {who : Agent} (hu : takeTurn s = (who, u)) :
    ∃ sc d, u = (s.setSched sc).setDraws d := by
  have hw := takeTurn_writes s
  rwa [hu] at hw

/-- A step is a clock edge, a dispatch that is taken, an operation phase that completes, or writes the
two marks only: `step_cases` for a proof to which all stops are alike. -/
theorem step_kinds {s t u : State} {who : Agent} (h : step s = .next t)
    (hu : takeTurn s = (who, u)) :
    ((who = .clock ∨ u.stopped = true) ∧ t = clockEdge u) ∨
      (who = .cpu ∧ u.stopped = false ∧ u.dispatchDue = true ∧
        ∃ c, t = { u with hdl := c, i := false, ctx := .handler }) ∨
      (who = .cpu ∧ u.stopped = false ∧ u.dispatchDue = false ∧
        ∃ w i, u.fetch = some w ∧ decode w = .ok i ∧ exec i u = .next t) ∨
      ∃ f r, t = { u with fault := f, refused := r } := by
  rcases step_cases h hu with hedge | ⟨hc, hs, hd, ⟨e, -, ht⟩ | ⟨-, ht⟩⟩ |
    ⟨hc, hs, hd, ⟨-, ht⟩ | ⟨w, hf, ⟨-, ht⟩ | ⟨i, hw, hx | ⟨f, -, ht⟩ | ⟨c, -, ht⟩⟩⟩⟩
  · exact .inl hedge
  · exact .inr (.inl ⟨hc, hs, hd, _, ht⟩)
  · exact .inr (.inr (.inr ⟨_, _, ht⟩))
  · exact .inr (.inr (.inr ⟨_, _, ht⟩))
  · exact .inr (.inr (.inr ⟨_, _, ht⟩))
  · exact .inr (.inr (.inl ⟨hc, hs, hd, w, i, hf, hw, hx⟩))
  · exact .inr (.inr (.inr ⟨_, _, ht⟩))
  · exact .inr (.inr (.inr ⟨_, _, ht⟩))

/-- A clock edge leaves the software registers, the line, its observation, the context and I
(60_exceptions.md R159). -/
theorem clockEdge_frame (u : State) :
    ((clockEdge u).ocr = u.ocr ∧ (clockEdge u).tccra = u.tccra ∧ (clockEdge u).tccrb = u.tccrb ∧
      (clockEdge u).timsk = u.timsk ∧ (clockEdge u).ddr = u.ddr) ∧
    ((clockEdge u).port = u.port ∧ (clockEdge u).trace = u.trace) ∧
    (clockEdge u).ctx = u.ctx ∧ (clockEdge u).i = u.i := by
  obtain ⟨c, f, hedge⟩ := clockEdge_writes u
  simp [hedge]

/-- A step that changes the context or I is a dispatch that is taken, or runs a fetched operation to
its end. -/
theorem step_changes_ctx_or_i {s t : State} (h : step s = .next t)
    (hne : t.ctx ≠ s.ctx ∨ t.i ≠ s.i) :
    ∃ u, takeTurn s = (.cpu, u) ∧ u.stopped = false ∧ u.ctx = s.ctx ∧ u.i = s.i ∧
      ((u.dispatchDue = true ∧ t.i = false) ∨
        ∃ w i, u.cfg.program[u.cur.pc.toNat]? = some w ∧ decode w = .ok i ∧
          exec i u = .next t) := by
  rcases hu : takeTurn s with ⟨who, u⟩
  have ⟨hctx, hi⟩ : u.ctx = s.ctx ∧ u.i = s.i := by
    obtain ⟨sc, d, rfl⟩ := takeTurn_eq hu
    simp
  rcases step_kinds h hu with ⟨-, rfl⟩ | ⟨rfl, hs, hd, c, rfl⟩ |
    ⟨rfl, hs, -, w, i, hf, hw, hx⟩ | ⟨f, r, rfl⟩
  · obtain ⟨-, -, hctx', hi'⟩ := clockEdge_frame u
    simp [hctx', hi', hctx, hi] at hne
  · exact ⟨u, rfl, hs, hctx, hi, .inl ⟨hd, rfl⟩⟩
  · exact ⟨u, rfl, hs, hctx, hi, .inr ⟨w, i, (wordAt_eq_some.mp hf).2, hw, hx⟩⟩
  · simp [hctx, hi] at hne

/-! The context and I. -/

/-- Settles O14: of the operations that complete, only RETI changes the context, and only from the
handler (`exec_frame`); a due dispatch is due in main. -/
theorem onlyDispatchAndRetiChangeTheContext :
    Obligations.OnlyDispatchAndRetiChangeTheContext := by
  intro s t h hne
  obtain ⟨u, hu, hs, hctx, -, ⟨hd, -⟩ | ⟨w, i, hp, hw, hx⟩⟩ := step_changes_ctx_or_i h (.inl hne)
  · exact ⟨u, hu, hs, .inl ⟨hctx ▸ (dispatchDue_main hd).1, hd⟩⟩
  · obtain ⟨rfl, hhdl, -⟩ := (exec_frame hx).ctx (hctx ▸ hne)
    exact ⟨u, hu, hs, .inr ⟨hctx ▸ hhdl, w, hp, hw⟩⟩

/-- No register's byte depends on I (10_state.md R38). -/
@[simp] theorem regByte_setI (s : State) (b : Bool) (d : BitVec 3) (r : Reg) :
    (s.setI b).regByte d r = s.regByte d r := by
  cases r <;> rfl

/-- RegRead8 answers the same byte, or the same fault, whatever I is. -/
theorem regRead8_setI (a : Addr) (b : Bool) (s : State) :
    (regRead8 a (s.setI b)).map Prod.fst = (regRead8 a s).map Prod.fst := by
  simp only [regRead8_eq, setI_cfg, setI_draws, regByte_setI]
  cases s.cfg.map a <;> rfl

/-- RegRead16 answers the same word, or the same fault, whatever I is. -/
theorem regRead16_setI (a : Addr) (b : Bool) (s : State) :
    regRead16 a (s.setI b) = regRead16 a s := rfl

/-- Settles O15: of the operations that complete, only these write I (`exec_frame`), and a dispatch
clears it; a register's byte or word is read without I. -/
theorem onlyTheseOperationsWriteI : Obligations.OnlyTheseOperationsWriteI := by
  refine ⟨fun s t h hne => ?_, fun s a b => ⟨regRead8_setI a b s, regRead16_setI a b s⟩⟩
  obtain ⟨u, hu, hs, -, hi, hd | ⟨w, i, hp, hw, hx⟩⟩ := step_changes_ctx_or_i h (.inr hne)
  · exact ⟨u, hu, hs, .inl hd⟩
  · exact ⟨u, hu, hs, .inr ⟨w, i, hp, hw, ((exec_frame hx).i (hi ▸ hne)).2⟩⟩

/-! The line and its observation. -/

/-- In the second phase of a read-modify-write the byte written is f(v, m), whatever is decoded. -/
theorem byteWritten_second {u : State} {w : Word} {i : Instr} {op : Rmw} {v : Byte}
    (hf : u.fetch = some w) (hw : decode w = .ok i) (hp : u.cur.ph = .second op v) :
    u.byteWritten = some (op.a, op.kind.apply v op.m) := by
  simp [State.byteWritten, hf, hw, hp]

/-- In its first phase WR8 writes its operand. -/
theorem byteWritten_wr8 {u : State} {w : Word} {a : Addr} {v : Byte}
    (hf : u.fetch = some w) (hw : decode w = .ok (.wr8 a v)) (hp : u.cur.ph = .first) :
    u.byteWritten = some (a, v) := by
  simp [State.byteWritten, hf, hw, hp]

/-- A phase that writes a byte is RegWrite8 of that byte, after which the operation completes. -/
theorem exec_of_byteWritten {u : State} {a : Addr} {v : Byte} (h : u.byteWritten = some (a, v)) :
    ∃ w i, u.fetch = some w ∧ decode w = .ok i ∧
      exec i u = thenDo (regWrite8 a v u) State.advance := by
  unfold State.byteWritten at h
  split at h
  · next i hd =>
    obtain ⟨w, hf, hw⟩ := Option.map_eq_some_iff.mp hd
    refine ⟨w, i, hf, hw, ?_⟩
    split at h
    · next hp => cases h; exact exec_second hp _
    · next hp => cases h; simp only [exec, execWr8, inPhase_first hp]
    · cases h
  · cases h

/-- A byte write of PORT stores the byte and appends its observation (20_memory.md R64). -/
theorem regWrite8_port {u : State} {a : Addr} (v : Byte) (hm : u.cfg.map a = some .port) :
    regWrite8 a v u = .next (u.writePort v) :=
  regWrite8_next.mpr ⟨.port, hm, rfl⟩

/-- The CPU's step that writes a byte of PORT writes PORT and completes the operation. -/
theorem step_of_port_written {s u : State} {a : Addr} {v : Byte} (hu : takeTurn s = (.cpu, u))
    (hs : u.stopped = false) (hd : u.dispatchDue = false) (hb : u.byteWritten = some (a, v))
    (hm : u.cfg.map a = some .port) : step s = .next (u.writePort v).advance := by
  obtain ⟨w, i, hf, hw, hx⟩ := exec_of_byteWritten hb
  rw [regWrite8_port v hm] at hx
  simp [step, hu, agentStep, hs, cpuStep, hd, cpuPhase, hf, hw, hx, thenDo, settle]

/-- A write of another register leaves PORT and the trace. -/
theorem WroteByte.port_trace {u t : State} {r : Reg} {v : Byte} (h : WroteByte u t r v)
    (hr : r ≠ .port) : t.port = u.port ∧ t.trace = u.trace :=
  ⟨((h.others .port hr.symm u.port).mp rfl).symm, by simpa [hr] using h.trace⟩

/-- An operation phase that writes no byte of PORT leaves PORT and the trace. -/
theorem exec_port_trace {u t : State} {w : Word} {i : Instr} (hf : u.fetch = some w)
    (hw : decode w = .ok i) (hx : exec i u = .next t)
    (hb : ∀ a v, u.byteWritten = some (a, v) → u.cfg.map a ≠ some .port) :
    t.port = u.port ∧ t.trace = u.trace := by
  rcases exec_registers hx with ⟨a, v, r, hp, rfl, hm, hwr⟩ | ⟨op, b, r, hp, hm, hwr⟩ |
    ⟨a, v, -, -, -, -, -, -, -, -, hport, htrace⟩ | ⟨-, -, -, hsame⟩
  · exact hwr.port_trace fun hr => hb a v (byteWritten_wr8 hf hw hp) (hr ▸ hm)
  · exact hwr.port_trace fun hr => hb op.a _ (byteWritten_second hf hw hp) (hr ▸ hm)
  · exact ⟨hport, htrace⟩
  · exact ⟨hsame.port, hsame.trace⟩

/-- A step that is no CPU phase writing a byte of PORT leaves PORT and the trace. -/
theorem step_port_trace {s t u : State} {who : Agent} (h : step s = .next t)
    (hu : takeTurn s = (who, u))
    (hb : who = .cpu → u.stopped = false → u.dispatchDue = false →
      ∀ a v, u.byteWritten = some (a, v) → u.cfg.map a ≠ some .port) :
    t.port = u.port ∧ t.trace = u.trace := by
  rcases step_kinds h hu with ⟨-, rfl⟩ | ⟨-, -, -, c, rfl⟩ |
    ⟨hc, hs, hd, w, i, hf, hw, hx⟩ | ⟨f, r, rfl⟩
  · exact (clockEdge_frame u).2.1
  · exact ⟨rfl, rfl⟩
  · exact exec_port_trace hf hw hx (hb hc hs hd)
  · exact ⟨rfl, rfl⟩

/-- Settles O18: the step that writes a byte of PORT is computed (`step_of_port_written`); any other
step leaves PORT and the trace (`step_port_trace`). -/
theorem lineChangesOnlyByPortWrites : Obligations.LineChangesOnlyByPortWrites := by
  intro s t u who h hu
  obtain ⟨sc, d, hsu⟩ := takeTurn_eq hu
  constructor
  · rintro a v rfl hs hd hb hm
    have ht : t = (u.writePort v).advance := by
      simpa [h] using step_of_port_written hu hs hd hb hm
    subst hsu ht
    simp [advance_eq, State.writePort, State.lineEvent, Params.outOf]
  · intro hno
    have hkept : t.port = u.port ∧ t.trace = u.trace := by
      refine step_port_trace h hu fun hc hs hd a v hb => ?_
      rcases hno with hno | hno | hno | hno | ⟨a', v', hb', hm⟩
      · simp [hc] at hno
      · simp [hs] at hno
      · simp [hd] at hno
      · simp [hb] at hno
      · obtain ⟨rfl, rfl⟩ : a' = a ∧ v' = v := by simpa [hb] using hb'.symm
        exact hm
    simpa [hsu] using hkept

/-! The software registers. -/

/-- Settles O19: neither a clock edge, nor a dispatch, nor the mark of a dispatch that fails, writes
any of the five; the phase of an operation is none of the three steps spoken of. -/
theorem hardwareNeverWritesTheSoftwareRegisters :
    Obligations.HardwareNeverWritesTheSoftwareRegisters := by
  intro s t h hhw
  rcases hu : takeTurn s with ⟨who, u⟩
  obtain ⟨sc, d, hsu⟩ := takeTurn_eq hu
  have hkept : t.ocr = u.ocr ∧ t.tccra = u.tccra ∧ t.tccrb = u.tccrb ∧ t.timsk = u.timsk ∧
      t.ddr = u.ddr := by
    rcases step_kinds h hu with ⟨-, rfl⟩ | ⟨-, -, -, c, rfl⟩ |
      ⟨rfl, hs, hd, -⟩ | ⟨f, r, rfl⟩
    · exact (clockEdge_frame u).1
    · exact ⟨rfl, rfl, rfl, rfl, rfl⟩
    · have hs' : s.stopped = false := by rw [← hs, hsu]; rfl
      have hd' : s.dispatchDue = false := by rw [← hd, hsu]; rfl
      simp [hu, hs', hd'] at hhw
    · exact ⟨rfl, rfl, rfl, rfl, rfl⟩
  simpa [hsu] using hkept

end Sys2Proof.Machine

/-! SUPPORT. The encoding (30_encoding.md): the decoder said once for all thirteen operations, by
op code and format; the opcode map, the illegal words and the stored words follow. -/

namespace Sys2Proof

/-! The formats. -/

/-- The five formats of 30_encoding.md R81 to R85. -/
inductive Format where
  | b | w | r | s | j
  deriving DecidableEq

/-- What a format asks of the two operand fields (30_encoding.md R81 to R85). -/
def Format.Fits (a : Addr) (k : U16) : Format → Prop
  | .b => k.extractLsb' 8 8 = 0
  | .w => True
  | .r => k = 0
  | .s => a = 0 ∧ k = 0
  | .j => a = 0

/-- The bits of `a` that a format holds at 0. -/
def Format.aMask : Format → Addr
  | .s | .j => 0xFFF
  | .b | .w | .r => 0

/-- The bits of `k` that a format holds at 0. -/
def Format.kMask : Format → U16
  | .b => 0xFF00
  | .r | .s => 0xFFFF
  | .w | .j => 0

/-- The format of an operation (30_encoding.md R86). -/
def Mnemonic.format : Mnemonic → Format
  | .wr8 | .setb | .clrb | .tglb => .b
  | .wr16 => .w
  | .rd8 | .rd16 => .r
  | .cli | .sei | .idis | .irst | .reti => .s
  | .jmp => .j

/-- The op codes of a format (30_encoding.md R86, R88). -/
def Format.ops : Format → List (BitVec 4)
  | .b => [0x1, 0x5, 0x6, 0x7]
  | .w => [0x2]
  | .r => [0x3, 0x4]
  | .s => [0x8, 0x9, 0xA, 0xB, 0xC]
  | .j => [0xD]

/-- The op code of an operation (30_encoding.md R86). -/
def Mnemonic.op : Mnemonic → BitVec 4
  | .wr8 => 0x1
  | .wr16 => 0x2
  | .rd8 => 0x3
  | .rd16 => 0x4
  | .setb => 0x5
  | .clrb => 0x6
  | .tglb => 0x7
  | .cli => 0x8
  | .sei => 0x9
  | .idis => 0xA
  | .irst => 0xB
  | .reti => 0xC
  | .jmp => 0xD

/-- The high byte of a half word is 0 exactly when the mask of its bits gives 0. -/
theorem hi_eq_zero_iff (k : U16) : k.extractLsb' 8 8 = 0 ↔ k &&& 0xFF00 = 0 := by
  constructor
  · intro h
    rw [← zeroExtend_lo h]
    exact Laws.TableRow.zeroExtend_and _
  · intro h
    have hmask : (k &&& 0xFF00).extractLsb' 8 8 = k.extractLsb' 8 8 := by
      rw [BitVec.extractLsb'_and]
      exact BitVec.and_allOnes
    rw [← hmask, h]
    rfl

/-- A format fits exactly the fields in which the masked bits are 0. -/
theorem Format.fits_iff_masked (f : Format) (a : Addr) (k : U16) :
    f.Fits a k ↔ a &&& f.aMask = 0 ∧ k &&& f.kMask = 0 := by
  have ha : a &&& 0xFFF#12 = a := BitVec.and_allOnes
  have hk : k &&& 0xFFFF#16 = k := BitVec.and_allOnes
  cases f with
  | b => simpa [Format.Fits, Format.aMask, Format.kMask] using hi_eq_zero_iff k
  | w => simp [Format.Fits, Format.aMask, Format.kMask]
  | r => simp [Format.Fits, Format.aMask, Format.kMask, hk]
  | s => simp [Format.Fits, Format.aMask, Format.kMask, ha, hk]
  | j => simp [Format.Fits, Format.aMask, Format.kMask, ha]

/-! The decoder, said once for all operations. -/

/-- The op codes of no operation (30_encoding.md R88). -/
def reservedOps : List (BitVec 4) := [0x0, 0xE, 0xF]

/-- A reserved op code decodes to no operation. -/
theorem decode_of_reserved {w : Word} (h : opField w ∈ reservedOps) :
    decode w = .error .reservedOp := by
  simp only [reservedOps, List.mem_cons, List.not_mem_nil, or_false] at h
  rcases h with h | h | h <;> simp [decode, h]

/-- An op code that is not reserved is an operation's. -/
theorem reservedOps_or_op : ∀ op : BitVec 4,
    op ∈ reservedOps ∨ ∃ r ∈ opcodeTable, r.mnemonic.op = op := by decide

/-- A word with an operation's op code and with the fields its format asks for decodes to it. -/
theorem decode_of_fits {w : Word} {m : Mnemonic} (ho : opField w = m.op)
    (hf : m.format.Fits (aField w) (kField w)) : ∃ i, decode w = .ok i ∧ i.mnemonic = m := by
  cases m <;> simp_all [Mnemonic.op, Mnemonic.format, Format.Fits, decode, decodeB, decodeR,
    decodeS, decodeJ, Instr.mnemonic]

/-- A word with an operation's op code and with other fields is illegal. -/
theorem decode_of_not_fits {w : Word} {m : Mnemonic} (ho : opField w = m.op)
    (hf : ¬ m.format.Fits (aField w) (kField w)) : decode w = .error .nonzeroField := by
  cases m <;> simp_all [Mnemonic.op, Mnemonic.format, Format.Fits, decode, decodeB, decodeR,
    decodeS, decodeJ]

/-- A word decodes to the operation of its op code exactly when its fields fit the format. -/
theorem decode_ok_iff {w : Word} {m : Mnemonic} :
    (∃ i, decode w = .ok i ∧ i.mnemonic = m) ↔
      opField w = m.op ∧ m.format.Fits (aField w) (kField w) := by
  refine ⟨?_, fun ⟨ho, hf⟩ => decode_of_fits ho hf⟩
  rintro ⟨i, hi, rfl⟩
  rcases reservedOps_or_op (opField w) with hres | ⟨r, -, ho⟩
  · simp [decode_of_reserved hres] at hi
  by_cases hf : r.mnemonic.format.Fits (aField w) (kField w)
  · obtain ⟨i', hi', hm⟩ := decode_of_fits ho.symm hf
    obtain rfl : i' = i := by simpa [hi] using hi'.symm
    exact hm ▸ ⟨ho.symm, hf⟩
  · simp [decode_of_not_fits ho.symm hf] at hi

/-! The opcode map (30_encoding.md R86). -/

/-- Two words are one word exactly when their three fields agree. -/
theorem fieldsWord_inj {op op' : BitVec 4} {a a' : Addr} {k k' : U16} :
    fieldsWord op a k = fieldsWord op' a' k' ↔ op = op' ∧ a = a' ∧ k = k' := by
  refine ⟨fun h => ⟨?_, ?_, ?_⟩, fun ⟨ho, ha, hk⟩ => by rw [ho, ha, hk]⟩
  · simpa using congrArg opField h
  · simpa using congrArg aField h
  · simpa using congrArg kField h

/-- A row's pattern is its op code alone; its mask is the op field and the bits its format holds
at 0. -/
theorem opcodeTable_fields : ∀ r ∈ opcodeTable,
    r.pattern = fieldsWord r.mnemonic.op 0 0 ∧
      r.mask = fieldsWord 0xF r.mnemonic.format.aMask r.mnemonic.format.kMask := by decide

/-- A row is known by its mnemonic. -/
theorem opcodeTable_mnemonic_inj : ∀ r ∈ opcodeTable, ∀ r' ∈ opcodeTable,
    r.mnemonic = r'.mnemonic → r = r' := by decide

/-- A row selects exactly the words of its op code whose fields fit its format. -/
theorem row_selects_iff {r : OpcodeRow} (hr : r ∈ opcodeTable) (w : Word) :
    w &&& r.mask = r.pattern ↔
      opField w = r.mnemonic.op ∧ r.mnemonic.format.Fits (aField w) (kField w) := by
  obtain ⟨hpattern, hmask⟩ := opcodeTable_fields r hr
  have hop : opField w &&& 0xF = opField w := BitVec.and_allOnes
  calc w &&& r.mask = r.pattern
      ↔ fieldsWord (opField w &&& 0xF) (aField w &&& r.mnemonic.format.aMask)
          (kField w &&& r.mnemonic.format.kMask) = fieldsWord r.mnemonic.op 0 0 := by
        rw [← Laws.TableRow.and_fieldsWord, fieldsWord_fields, hmask, hpattern]
    _ ↔ opField w = r.mnemonic.op ∧ r.mnemonic.format.Fits (aField w) (kField w) := by
        rw [fieldsWord_inj, hop, Format.fits_iff_masked]

/-- A row selects exactly the words that decode to its mnemonic. -/
theorem row_selects_iff_decode {r : OpcodeRow} (hr : r ∈ opcodeTable) (w : Word) :
    w &&& r.mask = r.pattern ↔ ∃ i, decode w = .ok i ∧ i.mnemonic = r.mnemonic :=
  (row_selects_iff hr w).trans decode_ok_iff.symm

/-- Two rows that select one word are one row: the word decodes to one operation. -/
theorem row_unique {r r' : OpcodeRow} (hr : r ∈ opcodeTable) (hr' : r' ∈ opcodeTable) {w : Word}
    (h : w &&& r.mask = r.pattern) (h' : w &&& r'.mask = r'.pattern) : r = r' := by
  obtain ⟨i, hi, hm⟩ := (row_selects_iff_decode hr w).mp h
  obtain ⟨i', hi', hm'⟩ := (row_selects_iff_decode hr' w).mp h'
  obtain rfl : i = i' := by simpa [hi] using hi'
  exact opcodeTable_mnemonic_inj r hr r' hr' (hm.symm.trans hm')

/-- Settles O3: the rows written out are those of the model's opcode map, for which
`row_selects_iff_decode` and `row_unique` say it. -/
theorem wordSelectsExactlyItsRow : Obligations.WordSelectsExactlyItsRow := by
  unfold Obligations.WordSelectsExactlyItsRow
  intro rows
  have hrows : rows = opcodeTable.map fun r => (r.mnemonic, r.pattern, r.mask) := rfl
  simp only [hrows, List.forall_mem_map]
  exact ⟨fun w r hr => row_selects_iff_decode hr w,
    fun w r hr r' hr' h h' => by rw [row_unique hr hr' h h']⟩

/-! The illegal words (30_encoding.md R88). -/

/-- The op codes of a format are those of its rows. -/
theorem mem_ops_iff {f : Format} {op : BitVec 4} : op ∈ f.ops ↔
    ∃ r ∈ opcodeTable, r.mnemonic.op = op ∧ r.mnemonic.format = f := by
  revert op
  cases f <;> decide

/-- A word is illegal exactly when its op code is reserved or is one of a format that its fields do
not fit. -/
theorem decode_error_iff {w : Word} : (∃ r, decode w = .error r) ↔
    opField w ∈ reservedOps ∨ ∃ f : Format, opField w ∈ f.ops ∧ ¬ f.Fits (aField w) (kField w) := by
  constructor
  · rintro ⟨e, he⟩
    refine (reservedOps_or_op (opField w)).imp_right ?_
    rintro ⟨r, hr, ho⟩
    refine ⟨r.mnemonic.format, mem_ops_iff.mpr ⟨r, hr, ho, rfl⟩, fun hf => ?_⟩
    obtain ⟨i, hi, -⟩ := decode_of_fits ho.symm hf
    simp [hi] at he
  · rintro (hres | ⟨f, hops, hf⟩)
    · exact ⟨_, decode_of_reserved hres⟩
    · obtain ⟨r, -, ho, rfl⟩ := mem_ops_iff.mp hops
      exact ⟨_, decode_of_not_fits ho.symm hf⟩

/-- A format that has a property is one of the five. -/
theorem Format.exists_iff {p : Format → Prop} :
    (∃ f, p f) ↔ p .b ∨ p .w ∨ p .r ∨ p .s ∨ p .j := by
  constructor
  · rintro ⟨f, hf⟩
    cases f <;> simp [hf]
  · rintro (h | h | h | h | h) <;> exact ⟨_, h⟩

/-- Bits 15:8 of a word are the high byte of its field `k`. -/
theorem kField_hi (w : Word) : (kField w).extractLsb' 8 8 = w.extractLsb' 8 8 := by
  apply BitVec.eq_of_toNat_eq
  simp only [kField, BitVec.extractLsb'_toNat, Nat.shiftRight_eq_div_pow]
  omega

/-- Bits 27:0 of a word are 0 exactly when its two operand fields are. -/
theorem operands_eq_zero_iff (w : Word) :
    w.extractLsb' 0 28 = 0 ↔ aField w = 0 ∧ kField w = 0 := by
  simp only [← BitVec.toNat_inj, aField, kField, BitVec.extractLsb'_toNat,
    Nat.shiftRight_eq_div_pow, BitVec.ofNat_eq_ofNat, BitVec.toNat_ofNat]
  omega

end Sys2Proof

namespace Sys2Proof.Machine

/-- Where the CPU moves, nothing has stopped it and no dispatch is due, the step is the next phase
of the running context (60_exceptions.md R170). -/
theorem step_eq_cpuPhase {s t : State} (hu : takeTurn s = (.cpu, t)) (hs : t.stopped = false)
    (hd : t.dispatchDue = false) : step s = cpuPhase t := by
  simp [step, hu, agentStep, hs, cpuStep, hd]

/-- A phase that fetches an illegal word leaves the record of F_ILLEGAL and nothing else. -/
theorem cpuPhase_of_illegal {t : State} {w : Word} {r : Illegal} (hf : t.fetch = some w)
    (hw : decode w = .error r) : cpuPhase t = .next (t.raiseFault .illegal (some w)) := by
  simp [cpuPhase, hf, hw]

/-- Settles O4: the rows are `decode_error_iff` written out for the five formats, W having no field
to hold at 0; the step that fetches an illegal word is `cpuPhase_of_illegal`. -/
theorem illegalWordFaults : Obligations.IllegalWordFaults := by
  refine ⟨fun w => ?_, ⟨.reservedOp, rfl⟩, ⟨.reservedOp, rfl⟩, ?_⟩
  · rw [decode_error_iff, Format.exists_iff]
    simp only [Format.Fits, not_true_eq_false, and_false, false_or, kField_hi,
      ← operands_eq_zero_iff, Format.ops, List.mem_singleton]
    rfl
  · intro s t w r hu hs hd hpc hprog hw
    have hf : t.fetch = some w := wordAt_eq_some.mpr ⟨hpc, hprog⟩
    rw [step_eq_cpuPhase hu hs hd, cpuPhase_of_illegal hf hw]
    rfl

end Sys2Proof.Machine

namespace Sys2Proof

/-! The stored words (30_encoding.md R98). -/

/-- The bytes of a word before other bytes read back as that word before the others. -/
theorem programOfBytes_wordBytes_append (w : Word) (bs : List Byte) :
    programOfBytes (wordBytes w ++ bs) = (programOfBytes bs).map (w :: ·) := by
  simp [wordBytes, programOfBytes, bytesWord_bytes]

/-- The stored bytes of a program read back as the program. -/
theorem programOfBytes_programBytes (ws : List Word) :
    programOfBytes (programBytes ws) = some ws := by
  induction ws with
  | nil => rfl
  | cons w ws ih =>
    calc programOfBytes (programBytes (w :: ws))
        = programOfBytes (wordBytes w ++ programBytes ws) := rfl
      _ = (programOfBytes (programBytes ws)).map (w :: ·) := programOfBytes_wordBytes_append w _
      _ = some (w :: ws) := by rw [ih]; rfl

/-- Settles O6: the four bytes are the definition's, and the program reads back by induction on its
words. -/
theorem storedProgramReadsBack : Obligations.StoredProgramReadsBack :=
  ⟨fun _ => rfl, programOfBytes_programBytes⟩

end Sys2Proof

/-! SUPPORT. The register accesses (40_register_access.md): what a step makes of the decoded
operation, the byte that WR8 and the second phase of a read-modify-write store, the reads, the word
writes, and the program counter an operation leaves. -/

namespace Sys2Proof

/-! The words of the access operations. -/

/-- The decoder reads back every operand of an operation's word. -/
theorem decode_encode (i : Instr) : decode (encode i) = .ok i := by
  cases i <;> simp [encode, decode, decodeB, decodeR, decodeS, decodeJ, lo_zeroExtend,
    hi_zeroExtend]

/-- A zero-extended byte is the byte below a zero byte. -/
theorem zero_append_byte (v : Byte) : (0#8 ++ v : U16) = v.zeroExtend 16 := by
  have hhi := Machine.hi_bytes 0#8 v
  rw [← zeroExtend_lo hhi, Machine.lo_bytes]

/-- Format B written out: the byte operand below a zero byte (30_encoding.md R81). -/
theorem encode_wr8 (a : Addr) (v : Byte) : encode (.wr8 a v) = 0x1#4 ++ a ++ 0#8 ++ v := by
  rw [BitVec.append_assoc, zero_append_byte]
  rfl

end Sys2Proof

namespace Sys2Proof.Machine

/-! The step of the CPU (40_register_access.md R100). -/

/-- A phase that fetches an operation's word runs the operation. -/
theorem cpuPhase_of_decode {t : State} {w : Word} {i : Instr} (hf : t.fetch = some w)
    (hw : decode w = .ok i) : cpuPhase t = settle w t (exec i t) := by
  simp [cpuPhase, hf, hw]

/-- A phase that fetches no word leaves the record of F_PC_RANGE and nothing else. -/
theorem cpuPhase_of_no_word {t : State} (hf : t.fetch = none) :
    cpuPhase t = .next (t.raiseFault .pcRange none) := by
  simp [cpuPhase, hf]

/-- Settles O7: the step is the phase (`step_eq_cpuPhase`), and `settle` leaves a next state as it
is and turns a fault or a refusal into its record. -/
theorem stepRunsTheDecodedOperation : Obligations.StepRunsTheDecodedOperation := by
  refine ⟨fun s who rest h => by simp only [takeTurn, h]; rfl, ?_⟩
  intro s t w i hu hs hd hpc hprog hw
  have hstep : step s = settle w t (exec i t) := by
    rw [step_eq_cpuPhase hu hs hd, cpuPhase_of_decode (wordAt_eq_some.mpr ⟨hpc, hprog⟩) hw]
  refine ⟨fun u hx => ?_, fun f hx => ?_, fun c hx => ?_⟩ <;> rw [hstep, hx] <;> rfl

/-- Settles O8: no word is fetched there (`wordAt_eq_none`). -/
theorem fetchPastTheEndFaults : Obligations.FetchPastTheEndFaults := by
  intro s t hu hs hd hpc
  rw [step_eq_cpuPhase hu hs hd, cpuPhase_of_no_word (wordAt_eq_none.mpr hpc)]
  rfl

/-! A byte is stored and the operation completes: WR8, and the second phase of a
read-modify-write. -/

/-- The byte `v` is stored in the register `r`, the operation completes, and nothing else
changes. -/
def Stored (s t : State) (r : Reg) (v : Byte) : Prop :=
  WroteByte s t r v ∧ Continues s t (s.cur.pc + 1) s.cur.d s.cur.sv ∧ SameMachine s t ∧ t.i = s.i

/-- A byte write that is not refused, with the completion after it, stores the byte. -/
theorem stored_of_writeReg {s u : State} {r : Reg} {v : Byte} (h : s.writeReg r v = .ok u) :
    Stored s u.advance r v := by
  obtain ⟨hi, hctx, -, -, -, -⟩ := writeReg_frame h
  have hframe : ExecFrame (.wr8 0 v) s u.advance := writeReg_advance_frame h
  refine ⟨(writeReg_wrote h).advanced, ⟨?_, ?_, hframe.other⟩, hframe.machine, ?_⟩
  · simp [advance_eq, hctx]
  · simp [advance_eq, writeReg_cur h]
  · simp [advance_eq, hi]

section
variable {s t u : State} {a : Addr} {r : Reg} {v : Byte} {c : RefusalCode}

/-- A byte write that its register takes is followed by the completion. -/
theorem storeByte_of_writeReg (hm : s.cfg.map a = some r) (hw : s.writeReg r v = .ok u) :
    thenDo (regWrite8 a v s) State.advance = .next u.advance :=
  thenDo_next_iff.mpr ⟨u, regWrite8_next.mpr ⟨r, hm, hw⟩, rfl⟩

/-- A value that its register takes is stored. -/
theorem storeByte_stored (hm : s.cfg.map a = some r) (hr : refusalOf r v = none) :
    ∃ t, thenDo (regWrite8 a v s) State.advance = .next t ∧ Stored s t r v := by
  obtain ⟨u, hw⟩ := (writeReg_ok_iff (s := s)).mpr hr
  exact ⟨_, storeByte_of_writeReg hm hw, stored_of_writeReg hw⟩

/-- Where a byte write completes, the byte is stored in the register its address names. -/
theorem stored_of_storeByte (h : thenDo (regWrite8 a v s) State.advance = .next t) :
    ∃ r, s.cfg.map a = some r ∧ Stored s t r v := by
  obtain ⟨u, hw, rfl⟩ := thenDo_next_iff.mp h
  obtain ⟨r, hm, hu⟩ := regWrite8_next.mp hw
  exact ⟨r, hm, stored_of_writeReg hu⟩

/-- A value that its register does not take is refused. -/
theorem storeByte_refused (hm : s.cfg.map a = some r) (hr : refusalOf r v = some c) :
    thenDo (regWrite8 a v s) State.advance = .refused (.refuse c) :=
  thenDo_refused_iff.mpr ((regWrite8_stop.2 _).mpr ⟨r, c, hm, hr, rfl⟩)

/-- A byte write at an unmapped address faults. -/
theorem storeByte_unmapped (hm : s.cfg.map a = none) :
    thenDo (regWrite8 a v s) State.advance = .fault (.unmapped a) :=
  thenDo_fault_iff.mpr ((regWrite8_stop.1 _).mpr ⟨hm, rfl⟩)

/-- WR8 is the byte write, then the completion. -/
theorem exec_wr8_first (hp : s.cur.ph = .first) :
    exec (.wr8 a v) s = thenDo (regWrite8 a v s) State.advance := by
  simp only [exec, execWr8, inPhase_first hp]

end

/-- Settles O28: WR8 stores, is refused or faults as its byte write does. -/
theorem wr8WritesTheByte : Obligations.Wr8WritesTheByte := by
  intro s a v hp
  rw [exec_wr8_first hp]
  exact ⟨encode_wr8 a v ▸ decode_encode (.wr8 a v), fun r hm hr => storeByte_stored hm hr,
    fun r c hm hr => storeByte_refused hm hr, storeByte_unmapped⟩

/-- Settles O30: OCFA after the write is OCFA before it, so only the completion is left. -/
theorem flagClearIsIdempotent : Obligations.FlagClearIsIdempotent := by
  intro s a v hp hm hv
  have hkept : ocfaAfterWrite s.ocfa v = s.ocfa := by
    rcases hv with h | h <;> simp only [ocfaAfterWrite, h, Bool.false_and, Bool.not_false,
      Bool.and_true]
  have hw : s.writeReg .tifr v = .ok s := by simp only [State.writeReg, hkept]; rfl
  rw [exec_wr8_first hp, storeByte_of_writeReg hm hw, advance_eq]

/-- The second phase of a read-modify-write stores f(v, m) where the register takes it. -/
theorem exec_second_stored {s : State} {op : Rmw} {v : Byte} {r : Reg} (i : Instr)
    (hp : s.cur.ph = .second op v) (hm : s.cfg.map op.a = some r)
    (hr : refusalOf r (op.kind.apply v op.m) = none) :
    ∃ t, exec i s = .next t ∧ Stored s t r (op.kind.apply v op.m) := by
  rw [exec_second hp]
  exact storeByte_stored hm hr

/-- Settles O34: `exec_second_stored` with f(v, m) = v OR m. -/
theorem setbSecondPhaseWrites : Obligations.SetbSecondPhaseWrites :=
  fun _ _ _ _ _ hp hm hr => exec_second_stored _ hp hm hr

/-- Settles O35: `exec_second_stored` with f(v, m) = v AND NOT m. -/
theorem clrbSecondPhaseWrites : Obligations.ClrbSecondPhaseWrites :=
  fun _ _ _ _ _ hp hm hr => exec_second_stored _ hp hm hr

/-- Settles O36: `exec_second_stored` with f(v, m) = v XOR m. -/
theorem tglbSecondPhaseWrites : Obligations.TglbSecondPhaseWrites :=
  fun _ _ _ _ _ hp hm hr => exec_second_stored _ hp hm hr

/-- Settles O29: the second phase is refused as its byte write is. -/
theorem unadmittedRmwValuesAreRefused : Obligations.UnadmittedRmwValuesAreRefused := by
  intro s i op b r c _ hp hm hr
  rw [exec_second hp]
  exact storeByte_refused hm hr

/-! The operations that write the running record and no register. -/

/-- The running record becomes `c`, and no register and nothing else of the block changes. -/
def OnlyRecord (s t : State) (c : Context) : Prop :=
  t.cur = c ∧ t.ctx = s.ctx ∧ SameOtherContext s t ∧ SameRegisters s t ∧ SameMachine s t ∧ t.i = s.i

/-- Writing the running record after a draw does that alone. -/
theorem onlyRecord_drawn (s : State) (n : Nat) (c : Context) :
    OnlyRecord s ((s.setDraws n).setCur c) c := by
  refine ⟨by simp, by simp, ?_, by constructor <;> simp, by constructor <;> simp, by simp⟩
  cases h : s.ctx <;> simp [SameOtherContext, State.setCur, h]

/-- Writing the running record, with no draw, does that alone. -/
theorem onlyRecord_setCur (s : State) (c : Context) : OnlyRecord s (s.setCur c) c :=
  onlyRecord_drawn s s.draws c

/-- RD8 at a mapped address completes with the byte read in the data latch. -/
theorem exec_rd8_mapped {s : State} {a : Addr} {r : Reg} (hp : s.cur.ph = .first)
    (hm : s.cfg.map a = some r) :
    ∃ t, exec (.rd8 a) s = .next t ∧ OnlyRecord s t ⟨s.cur.pc + 1, .first,
      some ((s.regByte (Config.freeTifr s.draws) r).zeroExtend 16), s.cur.sv⟩ := by
  refine ⟨_, ?_, onlyRecord_drawn s (s.draws + 1) _⟩
  simp only [exec, execRd8, inPhase_first hp, regRead8_eq, hm, latch_eq, advance_eq, setCur_cur,
    setCur_setCur, setDraws_cur]

/-- RD8 at an unmapped address faults. -/
theorem exec_rd8_unmapped {s : State} {a : Addr} (hp : s.cur.ph = .first)
    (hm : s.cfg.map a = none) : exec (.rd8 a) s = .fault (.unmapped a) := by
  simp only [exec, execRd8, inPhase_first hp, regRead8_eq, hm]

/-- Settles O24: the byte read is what the register holds (`regByte_holds`), and the data latch and
the pc are all that changes. -/
theorem rd8LatchesTheByte : Obligations.Rd8LatchesTheByte := by
  refine fun s a hp => ⟨decode_encode (.rd8 a), fun r hm => ?_, exec_rd8_unmapped hp⟩
  obtain ⟨t, hx, hcur, hctx, hother, hregs, hmach, hi⟩ := exec_rd8_mapped hp hm
  exact ⟨t, _, hx, regByte_holds s _ r, ⟨hctx, hcur, hother⟩, hregs, hmach, hi⟩

/-- The first phase of a read-modify-write at a mapped address latches the operation with the byte
read. -/
theorem exec_rmw_first_mapped {s : State} {i : Instr} {op : Rmw} {r : Reg}
    (hi : i.rmw? = some op) (hp : s.cur.ph = .first) (hm : s.cfg.map op.a = some r) :
    ∃ t, exec i s = .next t ∧ OnlyRecord s t ⟨s.cur.pc,
      .second op (s.regByte (Config.freeTifr s.draws) r), s.cur.d, s.cur.sv⟩ := by
  refine ⟨_, ?_, onlyRecord_drawn s (s.draws + 1) _⟩
  simp only [exec_rmw_first hp hi, readPhase_eq, hm]

/-- Settles O33: the byte read is what the register holds (`regByte_holds`), and the phase latch is
all that changes. -/
theorem rmwFirstPhaseLatchesTheByte : Obligations.RmwFirstPhaseLatchesTheByte := by
  intro s i op r hi hp hm
  obtain ⟨t, hx, hlatched⟩ := exec_rmw_first_mapped hi hp hm
  exact ⟨t, _, hx, regByte_holds s _ r, hlatched⟩

/-! Both phases of a read-modify-write with nothing between them. -/

/-- What a register holds depends on the registers alone. -/
theorem SameRegisters.regHolds_iff {s t : State} (h : SameRegisters s t) (r : Reg) (b : Byte) :
    RegHolds s r b ↔ RegHolds t r b := by
  cases r <;> simp [RegHolds, h.tcnt, h.ocr, h.tccra, h.tccrb, h.timsk, h.ocfa, h.ddr, h.port]

/-- A byte written after the registers were left alone is written from the state before. -/
theorem WroteByte.of_sameRegisters {s t u : State} {r : Reg} {v : Byte} (h : WroteByte t u r v)
    (hregs : SameRegisters s t) (hcfg : t.cfg = s.cfg) : WroteByte s u r v where
  stored := h.stored
  flag := by rw [h.flag, hregs.ocfa]
  others r' hr b := (hregs.regHolds_iff r' b).trans (h.others r' hr b)
  trace := by rw [h.trace, hregs.trace, hcfg, hregs.ddr]

/-- At a register that takes every value, the two phases write f(v, m) of the byte `v` it reads as,
and the next operation of the context begins. -/
theorem exec_rmw_both {s : State} {i : Instr} {op : Rmw} {r : Reg} (hi : i.rmw? = some op)
    (hp : s.cur.ph = .first) (hm : s.cfg.map op.a = some r) (hr : ∀ v, refusalOf r v = none) :
    ∃ t u, exec i s = .next t ∧ exec i t = .next u ∧
      WroteByte s u r (op.kind.apply (s.regByte (Config.freeTifr s.draws) r) op.m) ∧
      u.cur.ph = .first ∧ u.cfg = s.cfg := by
  obtain ⟨t, hx, hcur, -, -, hregs, hmach, -⟩ := exec_rmw_first_mapped hi hp hm
  obtain ⟨u, hx', hwrote, hcont, hmach', -⟩ :=
    exec_second_stored i (by rw [hcur]) (hmach.cfg.symm ▸ hm) (hr _)
  exact ⟨t, u, hx, hx', hwrote.of_sameRegisters hregs hmach.cfg, by rw [hcont.cur],
    hmach'.cfg.trans hmach.cfg⟩

/-- A pending flag after both phases at TIFR: cleared exactly where f(v, m) has a 1 in bit 1. -/
theorem exec_rmw_tifr {s : State} {i : Instr} {op : Rmw} (hi : i.rmw? = some op)
    (hp : s.cur.ph = .first) (hm : s.cfg.map op.a = some .tifr) (hf : s.ocfa = true) :
    ∃ t u, exec i s = .next t ∧ exec i t = .next u ∧
      u.ocfa = !(op.kind.apply (tifrByte (Config.freeTifr s.draws) true) op.m).getLsbD 1 := by
  obtain ⟨t, u, hx, hx', hwrote, -, -⟩ := exec_rmw_both hi hp hm fun _ => rfl
  refine ⟨t, u, hx, hx', ?_⟩
  rw [hwrote.flag]
  simp [State.regByte, hf]

/-- Settles O37: bit 1 of the byte read is OCFA whatever is drawn (`tifrByte_bit1`), so bit 1 of
f(v, m) is 1 for SETB and the complement of the mask's for CLRB and TGLB. -/
theorem rmwOnTheFlagRegister : Obligations.RmwOnTheFlagRegister := by
  intro s a m hp hm hf
  refine ⟨?_, ?_, ?_⟩
  · simpa only [RmwKind.apply, BitVec.getLsbD_or, tifrByte_bit1, Bool.true_or, Bool.not_true]
      using exec_rmw_tifr (i := .setb a m) rfl hp hm hf
  · simpa only [RmwKind.apply, BitVec.getLsbD_and, BitVec.getLsbD_not, tifrByte_bit1, Bool.true_and,
      Nat.one_lt_ofNat, decide_true, Bool.not_not]
      using exec_rmw_tifr (i := .clrb a m) rfl hp hm hf
  · simpa only [RmwKind.apply, BitVec.getLsbD_xor, tifrByte_bit1, Bool.true_xor, Bool.not_not]
      using exec_rmw_tifr (i := .tglb a m) rfl hp hm hf

/-- Both phases of TGLB on PORT invert the mask's bits and append the observation. -/
theorem exec_tglb_port {s : State} {a : Addr} (m : Byte) (hp : s.cur.ph = .first)
    (hm : s.cfg.map a = some .port) :
    ∃ t u, exec (.tglb a m) s = .next t ∧ exec (.tglb a m) t = .next u ∧
      u.port = s.port ^^^ m ∧ u.ddr = s.ddr ∧ u.cur.ph = .first ∧ u.cfg = s.cfg ∧
      u.trace = s.trace ++ [⟨(s.port ^^^ m).getLsbD s.cfg.outBit.val,
        s.ddr.getLsbD s.cfg.outBit.val⟩] := by
  obtain ⟨t, u, hx, hx', hwrote, hph, hcfg⟩ :=
    exec_rmw_both (i := .tglb a m) rfl hp hm fun _ => rfl
  exact ⟨t, u, hx, hx', (hwrote.stored (by decide)).symm,
    ((hwrote.others .ddr (by decide) s.ddr).mp rfl).symm, hph, hcfg, hwrote.trace⟩

/-- Settles O38: `exec_tglb_port` twice; inverting the same bits again restores them. -/
theorem twoTogglesRestoreThePort : Obligations.TwoTogglesRestoreThePort := by
  intro s a m hp hm
  obtain ⟨s1, s2, hx1, hx2, hport, hddr, hp2, hcfg, htrace⟩ := exec_tglb_port m hp hm
  obtain ⟨s3, s4, hx3, hx4, hport', -, -, -, htrace'⟩ := exec_tglb_port m hp2 (hcfg.symm ▸ hm)
  have hback : s2.port ^^^ m = s.port := by rw [hport, BitVec.xor_assoc]; simp
  rw [hback] at hport' htrace'
  refine ⟨s1, s2, s3, s4, hx1, hx2, hx3, hx4, hport, hport', ?_⟩
  simp [htrace', htrace, hcfg, hddr]

/-! The word accesses. -/

/-- The fault of a word access that names no word register: F_WIDTH or F_UNMAPPED. -/
theorem fault_wordFault (p : Params) (a : Addr) :
    (.fault (wordFault p a) : Result) =
      if p.map a ≠ none then .fault (.width a) else .fault (.unmapped a) := by
  rw [wordFault_eq, apply_ite Host.Outcome.fault]

/-- RD16 latches the word of A_TCNT or A_OCR and completes, or faults. -/
theorem exec_rd16_first {s : State} {a : Addr} (hp : s.cur.ph = .first) :
    exec (.rd16 a) s =
      if a = s.cfg.aTcnt then .next (s.setCur ⟨s.cur.pc + 1, .first, some s.tcnt, s.cur.sv⟩)
      else if a = s.cfg.aOcr then
        .next (s.setCur ⟨s.cur.pc + 1, .first, some s.ocr, s.cur.sv⟩)
      else if s.cfg.map a ≠ none then .fault (.width a)
      else .fault (.unmapped a) := by
  simp only [exec, execRd16, inPhase_first hp, regRead16_eq, ← fault_wordFault]
  by_cases ht : a = s.cfg.aTcnt
  · simp only [if_pos ht, latch_eq, advance_eq, setCur_cur, setCur_setCur]
  · by_cases ho : a = s.cfg.aOcr
    · simp only [if_neg ht, if_pos ho, latch_eq, advance_eq, setCur_cur, setCur_setCur]
    · simp only [if_neg ht, if_neg ho]

/-- Settles O25: the word's fields are those of RD16 (`decode_encode`), and `exec_rd16_first`. -/
theorem rd16LatchesTheWord : Obligations.Rd16LatchesTheWord :=
  fun _ a hp => ⟨decode_encode (.rd16 a), exec_rd16_first hp⟩

/-- A word write and the write of the running record are independent. -/
theorem setCur_writeWord (s : State) (v : U16) (w : WordReg) (c : Context) :
    (s.writeWord v w).setCur c = (s.setCur c).writeWord v w := by
  cases h : s.ctx <;> cases w <;>
    simp only [State.writeWord, State.setCur, setTcnt_ctx, setOcr_ctx, h] <;> rfl

/-- A word write leaves the running record. -/
theorem writeWord_cur (s : State) (v : U16) (w : WordReg) : (s.writeWord v w).cur = s.cur := by
  cases w <;> rfl

/-- WR16 writes the word at A_TCNT or A_OCR and completes, or faults. -/
theorem exec_wr16_first {s : State} {a : Addr} {v : U16} (hp : s.cur.ph = .first) :
    exec (.wr16 a v) s =
      if a = s.cfg.aTcnt then
        .next ((s.setCur ⟨s.cur.pc + 1, .first, s.cur.d, s.cur.sv⟩).writeWord v .tcnt)
      else if a = s.cfg.aOcr then
        .next ((s.setCur ⟨s.cur.pc + 1, .first, s.cur.d, s.cur.sv⟩).writeWord v .ocr)
      else if s.cfg.map a ≠ none then .fault (.width a)
      else .fault (.unmapped a) := by
  have hwrote (w : WordReg) : (s.writeWord v w).advance =
      (s.setCur ⟨s.cur.pc + 1, .first, s.cur.d, s.cur.sv⟩).writeWord v w := by
    rw [advance_eq, writeWord_cur, setCur_writeWord]
  simp only [exec, execWr16, inPhase_first hp, regWrite16_eq, ← fault_wordFault, ← hwrote]
  by_cases ht : a = s.cfg.aTcnt
  · simp only [if_pos ht]; rfl
  · by_cases ho : a = s.cfg.aOcr
    · simp only [if_neg ht, if_pos ho]; rfl
    · simp only [if_neg ht, if_neg ho]; rfl

/-- Settles O31: the word's fields are those of WR16 (`decode_encode`), and `exec_wr16_first`. -/
theorem wr16WritesTheWord : Obligations.Wr16WritesTheWord :=
  fun _ a v hp => ⟨decode_encode (.wr16 a v), exec_wr16_first hp⟩

/-! The frame of the operations that store. -/

/-- Where WR16 completes, its address is a word register's, and the word is written. -/
theorem exec_wr16_next {s t : State} {a : Addr} {v : U16} (hp : s.cur.ph = .first)
    (h : exec (.wr16 a v) s = .next t) :
    ∃ w, a = s.cfg.wordAddrOf w ∧
      t = (s.setCur ⟨s.cur.pc + 1, .first, s.cur.d, s.cur.sv⟩).writeWord v w := by
  rw [exec_wr16_first hp] at h
  split_ifs at h with ht ho <;> cases h
  · exact ⟨.tcnt, ht, rfl⟩
  · exact ⟨.ocr, ho, rfl⟩

/-- Where the first phase of a read-modify-write completes, it latches the operation with a byte and
does nothing else. -/
theorem exec_rmw_first_next {s t : State} {i : Instr} {op : Rmw} (hi : i.rmw? = some op)
    (hp : s.cur.ph = .first) (h : exec i s = .next t) :
    ∃ v, OnlyRecord s t ⟨s.cur.pc, .second op v, s.cur.d, s.cur.sv⟩ := by
  cases hm : s.cfg.map op.a with
  | none => simp [exec_rmw_first hp hi, readPhase_eq, hm] at h
  | some r =>
    obtain ⟨t', hx, hlatched⟩ := exec_rmw_first_mapped hi hp hm
    obtain rfl : t' = t := by simpa [hx] using h
    exact ⟨_, hlatched⟩

/-- From `s` to `t`, all is as it was but the bytes at the addresses `stored`, the observation of
PORT where its address is one of them, the pc and the phase. -/
def LeavesOthers (s t : State) (stored : List Addr) : Prop :=
  (∀ a r, a ∉ stored → s.cfg.map a = some r → ∀ b, RegHolds s r b ↔ RegHolds t r b) ∧
    (s.cfg.aPort ∉ stored → t.trace = s.trace) ∧
    t.i = s.i ∧ t.ctx = s.ctx ∧ t.cur.d = s.cur.d ∧ t.cur.sv = s.cur.sv ∧
    SameOtherContext s t ∧ SameMachine s t

/-- A byte that is stored leaves all at the other addresses. -/
theorem Stored.leavesOthers {s t : State} {a : Addr} {r : Reg} {v : Byte} (h : Stored s t r v)
    (hm : s.cfg.map a = some r) : LeavesOthers s t [a] := by
  obtain ⟨hwrote, hcont, hmach, hi⟩ := h
  have hne {a' r'} (ha : a' ∉ [a]) (hr' : s.cfg.addrOf r' = a') : r' ≠ r := by
    rintro rfl
    exact ha (by simp [← hr', addrOf_of_map hm])
  refine ⟨fun a' r' ha hm' => hwrote.others r' (hne ha (addrOf_of_map hm')), fun ha => ?_, hi,
    hcont.ctx, by rw [hcont.cur], by rw [hcont.cur], hcont.other, hmach⟩
  rw [hwrote.trace, if_neg (hne ha rfl).symm]

/-- A written running record with its data latch and save bit kept leaves all. -/
theorem OnlyRecord.leavesOthers {s t : State} {pc : Pc} {ph : Phase}
    (h : OnlyRecord s t ⟨pc, ph, s.cur.d, s.cur.sv⟩) : LeavesOthers s t [] := by
  obtain ⟨hcur, hctx, hother, hregs, hmach, hi⟩ := h
  exact ⟨fun _ r _ _ => hregs.regHolds_iff r, fun _ => hregs.trace, hi, hctx, by rw [hcur],
    by rw [hcur], hother, hmach⟩

/-- A word write leaves what the registers at other addresses than its two hold. -/
theorem writeWord_regHolds_iff {s : State} {v : U16} {w : WordReg} {r : Reg}
    (hlo : s.cfg.addrOf r ≠ s.cfg.wordAddrOf w) (hhi : s.cfg.addrOf r ≠ s.cfg.wordAddrOf w + 1)
    (b : Byte) : RegHolds s r b ↔ RegHolds (s.writeWord v w) r b := by
  cases w with
  | tcnt =>
    cases r with
    | tcntL => exact absurd rfl hlo
    | tcntH => exact absurd rfl hhi
    | _ => exact Iff.rfl
  | ocr =>
    cases r with
    | ocrL => exact absurd rfl hlo
    | ocrH => exact absurd rfl hhi
    | _ => exact Iff.rfl

/-- A word write, with the completion, leaves all at other addresses than its two. -/
theorem writeWord_leavesOthers (s : State) (pc : Pc) (v : U16) (w : WordReg) :
    LeavesOthers s ((s.setCur ⟨pc, .first, s.cur.d, s.cur.sv⟩).writeWord v w)
      [s.cfg.wordAddrOf w, s.cfg.wordAddrOf w + 1] := by
  obtain ⟨hcur, hctx, hother, hregs, hmach, hi⟩ :=
    onlyRecord_setCur s ⟨pc, .first, s.cur.d, s.cur.sv⟩
  refine ⟨fun a r ha hm b => ?_, fun _ => ?_, ?_, ?_, ?_, ?_, ?_, ?_⟩
  · obtain rfl := addrOf_of_map hm
    simp only [List.mem_cons, List.not_mem_nil, or_false, not_or] at ha
    exact (hregs.regHolds_iff r b).trans
      (writeWord_regHolds_iff (hmach.cfg.symm ▸ ha.1) (hmach.cfg.symm ▸ ha.2) b)
  · cases w <;> exact hregs.trace
  · cases w <;> exact hi
  · cases w <;> exact hctx
  · rw [writeWord_cur, setCur_cur]
  · rw [writeWord_cur, setCur_cur]
  · cases w <;> exact hother
  · cases w <;> exact ⟨hmach.psc, hmach.fault, hmach.refused, hmach.cfg, hmach.sched⟩

/-- Settles O46: each of the four operations leaves all but what it stores. -/
theorem storingOperationsLeaveTheOtherBytes : Obligations.StoringOperationsLeaveTheOtherBytes := by
  intro s t i stored _ hcases hx
  rcases hcases with ⟨a, v, rfl, hp, rfl⟩ | ⟨a, v, rfl, hp, rfl⟩ | ⟨op, hi, hp, rfl⟩ |
    ⟨op, v, -, hp, rfl⟩
  · obtain ⟨r, hm, hstored⟩ := stored_of_storeByte (exec_wr8_first hp ▸ hx)
    exact hstored.leavesOthers hm
  · obtain ⟨w, rfl, rfl⟩ := exec_wr16_next hp hx
    exact writeWord_leavesOthers s _ v w
  · obtain ⟨v, hlatched⟩ := exec_rmw_first_next hi hp hx
    exact hlatched.leavesOthers
  · obtain ⟨r, hm, hstored⟩ := stored_of_storeByte (exec_second hp i ▸ hx)
    exact hstored.leavesOthers hm

/-! The program counter. -/

/-- The record of a context. -/
def State.record (s : State) : Ctx → Context
  | .main => s.main
  | .handler => s.hdl

/-- The running record is the record of the running context. -/
theorem cur_eq_record {s : State} {k : Ctx} (h : s.ctx = k) : s.cur = s.record k := by
  subst h
  cases h : s.ctx <;> simp [State.cur, State.record, h]

/-- The pc at which the first phase of an operation, if it completes, leaves its context
(10_state.md R47). -/
def firstPhasePc (i : Instr) (pc : Pc) : Pc :=
  match i with
  | .jmp target => Index.toPc target
  | .reti | .setb _ _ | .clrb _ _ | .tglb _ _ => pc
  | .wr8 _ _ | .wr16 _ _ | .rd8 _ | .rd16 _ | .cli | .sei | .idis | .irst => pc + 1

/-- The pc at which a phase that completes leaves the context it ran in (10_state.md R47). -/
def pcAfter (i : Instr) (s : State) : Pc :=
  match s.cur.ph with
  | .first => firstPhasePc i s.cur.pc
  | .second _ _ => s.cur.pc + 1

/-- The first phase. -/
theorem pcAfter_first {i : Instr} {s : State} (hp : s.cur.ph = .first) :
    pcAfter i s = firstPhasePc i s.cur.pc := by
  simp only [pcAfter, hp]

/-- The second phase counts the pc up by 1, whatever is decoded. -/
theorem pcAfter_second {i : Instr} {s : State} (hp : s.cur.ph ≠ .first) :
    pcAfter i s = s.cur.pc + 1 := by
  cases h : s.cur.ph with
  | first => exact absurd h hp
  | second op v => simp only [pcAfter, h]

/-- RETI and the first phase of a read-modify-write leave the pc. -/
theorem firstPhasePc_stays {i : Instr} (pc : Pc) (hi : i = .reti ∨ i.rmw? ≠ none) :
    firstPhasePc i pc = pc := by
  cases i with
  | reti | setb | clrb | tglb => rfl
  | _ => simp [Instr.rmw?] at hi

/-- Every other operation but JMP counts the pc up by 1. -/
theorem firstPhasePc_counts {i : Instr} (pc : Pc)
    (hi : i.mnemonic ∉ [.jmp, .reti, .setb, .clrb, .tglb]) : firstPhasePc i pc = pc + 1 := by
  cases i with
  | jmp | reti | setb | clrb | tglb => simp [Instr.mnemonic] at hi
  | _ => rfl

/-- Below the last index only JMP leaves a smaller pc. -/
theorem jmp_of_pcAfter_lt {i : Instr} {s : State} (hpc : s.cur.pc.toNat < 0x10000)
    (h : (pcAfter i s).toNat < s.cur.pc.toNat) : ∃ target, i = .jmp target := by
  have hup := pc_add_one_toNat hpc
  by_cases hp : s.cur.ph = .first
  · rw [pcAfter_first hp] at h
    unfold firstPhasePc at h
    split at h
    · exact ⟨_, rfl⟩
    all_goals omega
  · rw [pcAfter_second hp] at h
    omega

/-- The completion leaves the running context one further, whatever else it does. -/
theorem record_pc_of_advance {s u : State} (hctx : u.ctx = s.ctx) (hpc : u.cur.pc = s.cur.pc) :
    (u.advance.record s.ctx).pc = s.cur.pc + 1 := by
  rw [← cur_eq_record (s := u.advance) (by simp [advance_eq, hctx])]
  simp [advance_eq, hpc]

/-- A byte that is stored leaves the running context one further. -/
theorem Stored.record_pc {s t : State} {r : Reg} {v : Byte} (h : Stored s t r v) :
    (t.record s.ctx).pc = s.cur.pc + 1 := by
  obtain ⟨-, hcont, -, -⟩ := h
  rw [← cur_eq_record hcont.ctx, hcont.cur]

/-- A written running record has the pc written. -/
theorem OnlyRecord.record_pc {s t : State} {c : Context} (h : OnlyRecord s t c) :
    (t.record s.ctx).pc = c.pc := by
  obtain ⟨hcur, hctx, -⟩ := h
  rw [← cur_eq_record hctx, hcur]

/-- The first phase of an operation that completes leaves its context at `firstPhasePc`. -/
theorem exec_first_pc {i : Instr} {s t : State} (hp : s.cur.ph = .first)
    (h : exec i s = .next t) : (t.record s.ctx).pc = firstPhasePc i s.cur.pc := by
  cases i with
  | wr8 a v =>
    obtain ⟨r, -, hstored⟩ := stored_of_storeByte (exec_wr8_first hp ▸ h)
    exact hstored.record_pc
  | wr16 a v =>
    obtain ⟨w, -, rfl⟩ := exec_wr16_next hp h
    cases w <;> exact (onlyRecord_setCur s _).record_pc
  | rd8 a =>
    cases hm : s.cfg.map a with
    | none => simp [exec_rd8_unmapped hp hm] at h
    | some r =>
      obtain ⟨t', hx, hrecord⟩ := exec_rd8_mapped hp hm
      obtain rfl : t' = t := by simpa [hx] using h
      exact hrecord.record_pc
  | rd16 a =>
    rw [exec_rd16_first hp] at h
    split_ifs at h <;> cases h <;> exact (onlyRecord_setCur s _).record_pc
  | setb | clrb | tglb =>
    obtain ⟨v, hlatched⟩ := exec_rmw_first_next rfl hp h
    exact hlatched.record_pc
  | cli =>
    simp only [exec, execCli, inPhase_first hp] at h
    cases h
    exact record_pc_of_advance rfl rfl
  | sei =>
    simp only [exec, execSei, inPhase_first hp] at h
    split at h <;> cases h
    exact record_pc_of_advance rfl rfl
  | idis =>
    simp only [exec, execIdis, inPhase_first hp] at h
    cases h
    exact record_pc_of_advance (by simp [State.onCur]) (by simp [State.onCur])
  | irst =>
    simp only [exec, execIrst, inPhase_first hp] at h
    split at h
    · cases h
    · split_ifs at h
      cases h
      exact record_pc_of_advance rfl rfl
  | reti =>
    simp only [exec, execReti, inPhase_first hp] at h
    split at h <;> cases h
    next hctx => simp [State.record, returnFromHandler, firstPhasePc, State.cur, hctx]
  | jmp target =>
    simp only [exec, execJmp, inPhase_first hp] at h
    cases h
    exact (onlyRecord_setCur s _).record_pc

/-- Every operation that completes leaves its context at `pcAfter`. -/
theorem exec_pc {i : Instr} {s t : State} (h : exec i s = .next t) :
    (t.record s.ctx).pc = pcAfter i s := by
  cases hp : s.cur.ph with
  | first => rw [pcAfter_first hp, exec_first_pc hp h]
  | second op v =>
    obtain ⟨r, -, hstored⟩ := stored_of_storeByte (exec_second hp i ▸ h)
    rw [pcAfter_second (by simp [hp]), hstored.record_pc]

/-- The record of the context that does not run is the same. -/
theorem SameOtherContext.record_eq {s t : State} {k : Ctx} (h : SameOtherContext s t)
    (hk : s.ctx ≠ k) : t.record k = s.record k := by
  cases hc : s.ctx <;> cases k <;> simp_all [SameOtherContext, State.record]

/-- A clock edge leaves both records. -/
theorem clockEdge_record (u : State) (k : Ctx) : (clockEdge u).record k = u.record k := by
  obtain ⟨c, f, hedge⟩ := clockEdge_writes u
  rw [hedge]
  cases k <;> rfl

/-- A step after which a context stands at a smaller index runs a JMP of that context, or is a
dispatch, which begins the handler's record afresh. -/
theorem step_pc_falls {s t u : State} {who : Agent} {k : Ctx} (h : step s = .next t)
    (hu : takeTurn s = (who, u)) (hlt : (t.record k).pc.toNat < (s.record k).pc.toNat) :
    (∃ w target, who = .cpu ∧ u.stopped = false ∧ u.ctx = k ∧
        u.cfg.program[u.cur.pc.toNat]? = some w ∧ decode w = .ok (.jmp target)) ∨
      (k = .handler ∧ s.ctx = .main ∧ t.ctx = .handler) := by
  obtain ⟨sc, d, hsu⟩ := takeTurn_eq hu
  have hctx : u.ctx = s.ctx := by simp [hsu]
  have hrec : u.record k = s.record k := by rw [hsu]; cases k <;> rfl
  rw [← hrec] at hlt
  rcases step_kinds h hu with ⟨-, rfl⟩ | ⟨-, -, hd, c, rfl⟩ |
    ⟨hwho, hs, -, w, i, hf, hw, hx⟩ | ⟨f, r, rfl⟩
  · simp [clockEdge_record] at hlt
  · cases k with
    | main => exact absurd hlt (lt_irrefl _)
    | handler => exact .inr ⟨rfl, hctx ▸ (dispatchDue_main hd).1, rfl⟩
  · by_cases hk : u.ctx = k
    · obtain ⟨hpc, hprog⟩ := wordAt_eq_some.mp hf
      subst hk
      rw [exec_pc hx, ← cur_eq_record rfl] at hlt
      obtain ⟨target, rfl⟩ := jmp_of_pcAfter_lt hpc hlt
      exact .inl ⟨w, target, hwho, hs, rfl, hprog, hw⟩
    · simp [(exec_frame hx).other.record_eq hk] at hlt
  · exact absurd hlt (lt_irrefl _)

/-- Settles O60: an operation leaves its context at `pcAfter` (`exec_pc`), which counts below index
0x10000 without a wrap; over a step, `step_pc_falls`. -/
theorem indexCountsUpAndNeverWraps : Obligations.IndexCountsUpAndNeverWraps := by
  constructor
  · intro i s t h hpc c
    have hc : c.pc = pcAfter i s := exec_pc h
    refine ⟨?_, fun hi hp => ?_, fun hi => ?_⟩
    · rintro target rfl hp
      rw [hc, pcAfter_first hp]
      exact toPc_toNat target
    · rw [hc, pcAfter_first hp, firstPhasePc_stays _ hi]
    · rw [hc, ← pc_add_one_toNat hpc]
      by_cases hp : s.cur.ph = .first
      · rw [pcAfter_first hp, firstPhasePc_counts _ (hi.resolve_right (not_not.mpr hp))]
      · rw [pcAfter_second hp]
  · intro s t h jumps
    rcases hu : takeTurn s with ⟨who, u⟩
    refine ⟨fun hlt => ?_, fun hlt => ?_⟩
    · rcases step_pc_falls (k := .main) h hu hlt with ⟨w, target, rfl, hjmp⟩ | ⟨hk, -⟩
      · exact ⟨u, w, target, hu, hjmp⟩
      · cases hk
    · rcases step_pc_falls (k := .handler) h hu hlt with ⟨w, target, rfl, hjmp⟩ | ⟨-, hd⟩
      · exact .inl ⟨u, w, target, hu, hjmp⟩
      · exact .inr hd

end Sys2Proof.Machine

/-! SUPPORT. Interrupt control (41_interrupt_control.md): the completion of an operation that writes I,
the dispatch that a pending match makes due, and what CLI, SEI, IDIS, IRST and RETI answer in a first
phase. -/

namespace Sys2Proof.Machine

/-! The completion and the due dispatch. -/

/-- The write of I and the write of the running record are independent. -/
theorem setCur_setI (s : State) (b : Bool) (c : Context) :
    (s.setI b).setCur c = (s.setCur c).setI b := by
  cases h : s.ctx <;> simp only [State.setCur, setI_ctx, h] <;> rfl

/-- A write of I with the completion after it: only I and the pc change (10_state.md R47). -/
theorem advance_setI (s : State) (b : Bool) :
    (s.setI b).advance =
      { s.setCur ⟨s.cur.pc + 1, .first, s.cur.d, s.cur.sv⟩ with i := b } := by
  rw [advance_eq, setI_cur, setCur_setI]
  rfl

/-- In main with I set, a pending and enabled match makes the dispatch due
(60_exceptions.md R166). -/
theorem dispatchDue_of_pending {s : State} (hctx : s.ctx = .main) (hi : s.i = true)
    (hocfa : s.ocfa = true) (hocie : s.timsk.getLsbD 1 = true) : s.dispatchDue = true := by
  simp only [State.dispatchDue, State.irq, State.ociea, hctx, hi, hocfa, hocie, beq_self_eq_true,
    Bool.and_self]

/-- Setting I in main and completing makes the dispatch due where a match is pending and enabled. -/
theorem dispatchDue_advance_setI {s : State} (hctx : s.ctx = .main) (hocfa : s.ocfa = true)
    (hocie : s.timsk.getLsbD 1 = true) : (s.setI true).advance.dispatchDue = true := by
  rw [advance_setI]
  exact dispatchDue_of_pending (by simpa using hctx) rfl (by simpa using hocfa)
    (by simpa using hocie)

/-! The first phase of each operation. -/

section
variable {s : State} (hp : s.cur.ph = .first)
include hp

/-- CLI clears I and completes. -/
theorem exec_cli_first : exec .cli s = .next (s.setI false).advance := by
  simp only [exec, execCli, inPhase_first hp]

/-- SEI in main sets I and completes. -/
theorem exec_sei_main (hctx : s.ctx = .main) : exec .sei s = .next (s.setI true).advance := by
  simp only [exec, execSei, inPhase_first hp, hctx]

/-- SEI in the handler is refused. -/
theorem exec_sei_handler (hctx : s.ctx = .handler) : exec .sei s = .refused (.refuse .nested) := by
  simp only [exec, execSei, inPhase_first hp, hctx]

/-- IDIS saves I in the running record, clears it and completes. -/
theorem exec_idis_first : exec .idis s =
    .next { s.setCur ⟨s.cur.pc + 1, .first, s.cur.d, some s.i⟩ with i := false } := by
  simp only [exec, execIdis, inPhase_first hp, State.onCur, advance_setI, setCur_cur, setCur_setCur]

/-- IRST faults where nothing is saved. -/
theorem exec_irst_unsaved (hsv : s.cur.sv = none) : exec .irst s = .fault .unwritten := by
  simp only [exec, execIrst, inPhase_first hp, hsv]

/-- IRST of a saved bit is refused for a 1 in the handler; else I becomes the bit, and IRST
completes. -/
theorem exec_irst_saved {b : Bool} (hsv : s.cur.sv = some b) : exec .irst s =
    if s.ctx = .handler ∧ b = true then .refused (.refuse .nested)
    else .next (s.setI b).advance := by
  simp only [exec, execIrst, inPhase_first hp, hsv]

/-- RETI in the handler is the return to main. -/
theorem exec_reti_handler (hctx : s.ctx = .handler) :
    exec .reti s = .next (returnFromHandler s) := by
  simp only [exec, execReti, inPhase_first hp, hctx]

/-- RETI in main faults. -/
theorem exec_reti_main (hctx : s.ctx = .main) : exec .reti s = .fault .retiMain := by
  simp only [exec, execReti, inPhase_first hp, hctx]

end

/-! The obligations. -/

/-- Settles O39: CLI is a write of I and the completion (`advance_setI`). -/
theorem cliDisables : Obligations.CliDisables := by
  refine ⟨decode_encode .cli, fun s hp => ?_⟩
  rw [exec_cli_first hp, advance_setI]

/-- Settles O40: in main SEI is a write of I and the completion (`advance_setI`), after which
`dispatchDue_advance_setI` holds. -/
theorem seiEnablesInMainOnly : Obligations.SeiEnablesInMainOnly :=
  ⟨decode_encode .sei, fun s hp =>
    ⟨fun hctx => ⟨_, exec_sei_main hp hctx, advance_setI s true, dispatchDue_advance_setI hctx⟩,
      exec_sei_handler hp⟩⟩

/-- Settles O41: `exec_idis_first`. -/
theorem idisSavesAndDisables : Obligations.IdisSavesAndDisables :=
  ⟨decode_encode .idis, fun _ hp => exec_idis_first hp⟩

/-- Settles O42: IRST of a saved bit is a write of I and the completion, whose saved bit is the one
that stood there; a 1 that is not refused is restored in main. -/
theorem irstRestores : Obligations.IrstRestores := by
  refine ⟨decode_encode .irst, fun s hp =>
    ⟨exec_irst_unsaved hp, fun hi t hx => ?_, fun b hsv => ⟨fun hnest => ?_, fun hok => ?_⟩⟩⟩
  · rw [exec_idis_first hp, hi] at hx
    cases hx
    exact congrArg Context.sv (setCur_cur s _)
  · rw [exec_irst_saved hp hsv, if_pos hnest]
  · refine ⟨(s.setI b).advance, by rw [exec_irst_saved hp hsv, if_neg hok],
      hsv ▸ advance_setI s b, ?_⟩
    rintro rfl
    have hctx : s.ctx = .main := by
      cases hc : s.ctx with
      | main => rfl
      | handler => exact absurd ⟨hc, rfl⟩ hok
    exact dispatchDue_advance_setI hctx

/-- Settles O43: the return sets I and the context, and `main` is then the running record. -/
theorem retiReturnsToMain : Obligations.RetiReturnsToMain :=
  ⟨decode_encode .reti, fun _ hp =>
    ⟨fun hctx => ⟨returnFromHandler _, exec_reti_handler hp hctx, rfl, rfl,
      dispatchDue_of_pending (s := returnFromHandler _) rfl rfl⟩, exec_reti_main hp⟩⟩

end Sys2Proof.Machine

/-! SUPPORT. Control flow (42_control_flow.md): what JMP answers in a first phase, and what the
operations that store nothing leave unchanged. -/

namespace Sys2Proof.Machine

/-! JMP. -/

/-- JMP moves the pc of the running context, to any index (42_control_flow.md R135). -/
theorem exec_jmp_first {s : State} (target : Index) (hp : s.cur.ph = .first) :
    exec (.jmp target) s =
      .next (s.setCur ⟨Index.toPc target, .first, s.cur.d, s.cur.sv⟩) := by
  simp only [exec, execJmp, inPhase_first hp]
  rfl

/-- Format J written out: the target below the opcode and a zero address (30_encoding.md R85). -/
theorem encode_jmp (target : Index) : encode (.jmp target) = 0xD000#16 ++ target := rfl

/-- Settles O44: JMP is a write of the running record (`exec_jmp_first`), and the fetch after it is
one past the end of PROGRAM (`fetchPastTheEndFaults`). -/
theorem jmpSetsThePc : Obligations.JmpSetsThePc := by
  refine fun s target hp => ⟨encode_jmp target ▸ decode_encode (.jmp target),
    exec_jmp_first target hp, fun t u hx hu hs hd hend => ?_⟩
  obtain rfl : s.setCur ⟨Index.toPc target, .first, s.cur.d, s.cur.sv⟩ = t := by
    simpa [exec_jmp_first target hp] using hx
  obtain ⟨sc, d, hsu⟩ := takeTurn_eq hu
  have hcur : u.cur = ⟨Index.toPc target, .first, s.cur.d, s.cur.sv⟩ := by simp [hsu]
  have hctx : u.ctx = s.ctx := by simp [hsu]
  have hcfg : u.cfg = s.cfg := by simp [hsu]
  have hpast : u.cfg.program.length ≤ u.cur.pc.toNat := by rwa [hcfg, hcur, toPc_toNat]
  rw [fetchPastTheEndFaults _ u hu hs hd (.inl hpast), hctx, hcur]
  rfl

/-! The frame of the operations that store nothing. -/

section
variable {i : Instr} {s t : State} (hp : s.cur.ph = .first) (h : exec i s = .next t)
include hp h

/-- A first phase of an operation other than WR8 and WR16 leaves the registers and the trace. -/
theorem sameRegisters_of_exec_first (hwr8 : i.mnemonic ≠ .wr8)
    (hwr16 : i.mnemonic ≠ .wr16) : SameRegisters s t := by
  rcases exec_registers h with ⟨a, v, r, -, rfl, -⟩ | ⟨op, b, r, hp', -⟩ | ⟨a, v, -, rfl, -⟩ |
    ⟨-, -, -, hsame⟩
  · exact absurd rfl hwr8
  · simp [hp] at hp'
  · exact absurd rfl hwr16
  · exact hsame

/-- Of the operations that store nothing, RETI aside, only RD8 and RD16 write the data latch, and
only IDIS writes the save bit (10_state.md R40). -/
theorem latches_of_exec_first (hi : i.mnemonic ∈ [.rd8, .rd16, .cli, .sei, .idis, .irst, .jmp]) :
    (i.mnemonic ∉ [.rd8, .rd16] → t.cur.d = s.cur.d) ∧
      (i.mnemonic ≠ .idis → t.cur.sv = s.cur.sv) := by
  cases i with
  | rd8 a =>
    cases hm : s.cfg.map a with
    | none => simp [exec_rd8_unmapped hp hm] at h
    | some r =>
      obtain ⟨t', hx, hcur, -⟩ := exec_rd8_mapped hp hm
      obtain rfl : t' = t := by simpa [hx] using h
      simp [Instr.mnemonic, hcur]
  | rd16 a =>
    rw [exec_rd16_first hp] at h
    split_ifs at h <;> cases h <;> simp [Instr.mnemonic]
  | cli =>
    rw [exec_cli_first hp] at h
    cases h
    simp [advance_eq]
  | sei =>
    cases hctx : s.ctx with
    | main => rw [exec_sei_main hp hctx] at h; cases h; simp [advance_eq]
    | handler => simp [exec_sei_handler hp hctx] at h
  | idis =>
    rw [exec_idis_first hp] at h
    have hcur : t.cur = ⟨s.cur.pc + 1, .first, s.cur.d, some s.i⟩ := by
      cases h
      exact setCur_cur s _
    simp [Instr.mnemonic, hcur]
  | irst =>
    cases hsv : s.cur.sv with
    | none => simp [exec_irst_unsaved hp hsv] at h
    | some b =>
      rw [exec_irst_saved hp hsv] at h
      split_ifs at h
      cases h
      simp [advance_eq, hsv]
  | jmp target =>
    rw [exec_jmp_first target hp] at h
    cases h
    simp
  | wr8 | wr16 | setb | clrb | tglb | reti => simp [Instr.mnemonic] at hi

end

/-- RD8, RD16 and JMP leave I: an operation that changes it is another (`exec_frame`). -/
theorem ExecFrame.i_eq {i : Instr} {s t : State} (h : ExecFrame i s t)
    (hi : i.mnemonic ∈ [.rd8, .rd16, .jmp]) : t.i = s.i := by
  by_contra hne
  obtain ⟨-, hwriter | ⟨rfl, -⟩⟩ := h.i hne
  · simp only [List.mem_cons, List.not_mem_nil, or_false] at hwriter
    obtain rfl | rfl | rfl | rfl := hwriter <;> simp [Instr.mnemonic] at hi
  · simp [Instr.mnemonic] at hi

/-- An operation other than RETI leaves the context. -/
theorem ExecFrame.ctx_eq {i : Instr} {s t : State} (h : ExecFrame i s t)
    (hi : i.mnemonic ≠ .reti) : t.ctx = s.ctx := by
  by_contra hne
  obtain ⟨rfl, -⟩ := h.ctx hne
  exact hi rfl

/-- Settles O45: the machine, the other record, I and the context by `exec_frame`, the registers by
`sameRegisters_of_exec_first`, the data latch and the save bit by `latches_of_exec_first`. -/
theorem nonStoringOperationsLeaveTheRegisters :
    Obligations.NonStoringOperationsLeaveTheRegisters := by
  intro i s t hp hi hx
  have hframe := exec_frame hx
  have hwr8 : i.mnemonic ≠ .wr8 := fun hw => by simp [hw] at hi
  have hwr16 : i.mnemonic ≠ .wr16 := fun hw => by simp [hw] at hi
  have hlatch (hne : i.mnemonic ≠ .reti) := latches_of_exec_first hp hx (by simpa [hne] using hi)
  refine ⟨sameRegisters_of_exec_first hp hx hwr8 hwr16, hframe.machine, hframe.other,
    hframe.i_eq, hframe.ctx_eq, fun hd => ?_, fun hsv => ?_⟩
  · by_cases hne : i.mnemonic = .reti
    · exact .inr hne
    · exact .inl ((hlatch hne).1 hd)
  · simp only [List.mem_cons, List.not_mem_nil, or_false, not_or] at hsv
    obtain ⟨hidis, hreti⟩ := hsv
    exact (hlatch hreti).2 hidis

end Sys2Proof.Machine

/-! SUPPORT. The threshold configuration (43_configuration.md): the natural-number arithmetic of
`configurePeriod` against the spec's exact rationals, and what a threshold that is given satisfies. -/

namespace Sys2Proof.Machine

/-! The quotient and its rounding. -/

/-- Round half up on natural numbers is the spec's `floor(q + 1/2)`: both halves over one
denominator are `(2 * num + den) / (2 * den)`. -/
theorem floor_div_add_half {den : ℕ} (num : ℕ) (hden : 0 < den) :
    ⌊(num / den : ℚ) + 1 / 2⌋ = (roundHalfUp num den : ℤ) := by
  have hne : (den : ℚ) ≠ 0 := by positivity
  have hq : (num / den : ℚ) + 1 / 2 = ((2 * num + den : ℕ) : ℚ) / ((2 * den : ℕ) : ℚ) := by
    push_cast
    field_simp
  rw [hq, Rat.floor_natCast_div_natCast, ← Int.natCast_ediv, roundHalfUp]

/-- The spec's test for an integer quotient is divisibility. -/
theorem floor_div_eq_self_iff_dvd {den : ℕ} (num : ℕ) (hden : 0 < den) :
    (⌊(num / den : ℚ)⌋ : ℚ) = num / den ↔ den ∣ num := by
  have hne : (den : ℚ) ≠ 0 := by positivity
  rw [Rat.floor_natCast_div_natCast, ← Int.natCast_ediv, Int.cast_natCast, eq_div_iff hne,
    ← Nat.cast_mul, Nat.cast_inj, Nat.dvd_iff_div_mul_eq]

/-- Rounding leaves an integer quotient. -/
theorem roundHalfUp_mul_right {den : ℕ} (k : ℕ) (hden : 0 < den) :
    roundHalfUp (k * den) den = k := by
  have hnum : 2 * (k * den) + den = den + 2 * den * k := by ring
  rw [roundHalfUp, hnum, Nat.add_mul_div_left _ _ (by omega), Nat.div_eq_of_lt (by omega), zero_add]

/-! What `configurePeriod` answers. -/

/-- A legal prescaler is positive, and with it the denominator of the quotient. -/
theorem denominator_pos {prescaler : ℕ} (h : prescaler ∈ legalPrescalers) :
    0 < 1000 * prescaler := by
  have hpos : ∀ n ∈ legalPrescalers, 0 < 1000 * n := by decide
  exact hpos prescaler h

/-- A rounded quotient in range is one more than the threshold it gives. -/
theorem threshold_eq_iff {r : ℕ} {t : U16} (hlo : ¬ (r : ℤ) - 1 < 0) (hhi : ¬ (r : ℤ) - 1 > 65535) :
    BitVec.ofNat 16 ((r : ℤ) - 1).toNat = t ↔ r = t.toNat + 1 := by
  rw [← BitVec.toNat_inj, BitVec.toNat_ofNat]
  omega

/-- `configurePeriod` gives a threshold for positive inputs, a legal prescaler and a quotient that
is neither rejected nor out of range, and it is one less than the rounded quotient. -/
theorem configurePeriod_eq_ok_iff {reject : Bool} {periodMs hz prescaler : ℕ} {t : U16} :
    configurePeriod reject periodMs hz prescaler = .ok t ↔
      periodMs ≠ 0 ∧ hz ≠ 0 ∧ prescaler ∈ legalPrescalers ∧
        (reject = true → 1000 * prescaler ∣ hz * periodMs) ∧
        roundHalfUp (hz * periodMs) (1000 * prescaler) = t.toNat + 1 := by
  have ht := t.isLt
  simp only [configurePeriod, Nat.dvd_iff_mod_eq_zero]
  generalize roundHalfUp (hz * periodMs) (1000 * prescaler) = r
  split_ifs with hzero hlegal hinexact hunder hover
  · exact ⟨False.elim, fun ⟨hperiod, hhz, _⟩ => hzero.elim hperiod hhz⟩
  · exact ⟨False.elim, fun ⟨_, _, _, hexact, _⟩ => hinexact.2 (hexact hinexact.1)⟩
  · exact ⟨False.elim, fun ⟨_, _, _, _, hr⟩ => by omega⟩
  · exact ⟨False.elim, fun ⟨_, _, _, _, hr⟩ => by omega⟩
  · rw [Except.ok.injEq, threshold_eq_iff hunder hover]
    tauto
  · exact ⟨False.elim, fun ⟨_, _, hmem, _⟩ => hlegal hmem⟩

/-! The obligations. -/

/-- Settles O56: the branches are the same in the same order, with the rounding by
`floor_div_add_half` and the test for an integer by `floor_div_eq_self_iff_dvd`. -/
theorem configurePeriodIsTheExactRounding : Obligations.ConfigurePeriodIsTheExactRounding := by
  refine ⟨rfl, fun reject periodMs hz prescaler => ?_⟩
  rw [configurePeriod, ← legalPrescalers]
  by_cases hlegal : prescaler ∈ legalPrescalers
  · have hden := denominator_pos hlegal
    have hq : (hz * periodMs : ℚ) / (1000 * prescaler) =
        (hz * periodMs : ℕ) / (1000 * prescaler : ℕ) := by push_cast; rfl
    simp only [hq, floor_div_add_half _ hden, ne_eq, floor_div_eq_self_iff_dvd _ hden,
      Nat.dvd_iff_mod_eq_zero]
    split_ifs with hzero hinexact hunder hover
    · rfl
    · rfl
    · rfl
    · rfl
    · rw [← BitVec.ofInt_natCast, Int.toNat_of_nonneg (not_lt.mp hunder)]
  · simp only [hlegal, not_false_eq_true, if_true]

/-- Settles O57: the threshold is one less than the rounded quotient, and rounding leaves an integer
quotient (`roundHalfUp_mul_right`), so `(t + 1) * prescaler / hz` is the period. -/
theorem exactQuotientGivesTheExactPeriod : Obligations.ExactQuotientGivesTheExactPeriod := by
  rintro reject periodMs hz prescaler t hok ⟨k, hk⟩
  obtain ⟨-, hhz, hlegal, -, hround⟩ := configurePeriod_eq_ok_iff.mp hok
  rw [hk, mul_comm, roundHalfUp_mul_right k (denominator_pos hlegal)] at hround
  have hedges : matchPeriodEdges t prescaler * 1000 = periodMs * hz := by
    rw [matchPeriodEdges, ← hround, mul_comm periodMs, hk]
    ring
  rw [matchPeriodSeconds, div_eq_div_iff (Nat.cast_ne_zero.mpr hhz) (by norm_num)]
  exact_mod_cast hedges

/-- Settles O58: the quotient is the integer 15625 (`roundHalfUp_mul_right`), so it is given whether
or not inexact quotients are rejected. -/
theorem literalConfigurationGives15624 : Obligations.LiteralConfigurationGives15624 := by
  have hok (reject : Bool) : configurePeriod reject 1000 4000000 256 = .ok (15624 : U16) :=
    configurePeriod_eq_ok_iff.mpr ⟨by decide, by decide, by decide, fun _ => by decide,
      roundHalfUp_mul_right 15625 (den := 256000) (by decide)⟩
  exact ⟨hok false, hok, rfl, rfl⟩

end Sys2Proof.Machine

/-! SUPPORT. The timer and the dispatch (60_exceptions.md R151, R152, R160, R170): the tick and the
edge, said once for each field they write; the edges of the prescaler one after another; the steps
that write the flag; and the step that takes a due dispatch. -/

namespace Sys2Proof.Machine

/-! The tick. -/

/-- The four bits of the counter mode, the high two from TCCRB (10_state.md R39). -/
theorem getLsbD_wgm (tccra tccrb : Byte) (i : Nat) :
    (wgm tccra tccrb).getLsbD i =
      if i < 2 then tccra.getLsbD i else decide (i < 4) && tccrb.getLsbD (i + 1) := by
  rw [wgm, BitVec.getLsbD_append, BitVec.getLsbD_extractLsb', BitVec.getLsbD_extractLsb']
  by_cases hi : i < 2
  · simp [hi]
  · simp [hi, show (i - 2 < 2) = (i < 4) by simp; omega, show 3 + (i - 2) = i + 1 by omega]

/-- CTC written out in the bits of the two control registers (10_state.md R39). -/
theorem ctc_iff {s : State} : s.ctc = true ↔ s.tccrb.getLsbD 4 = false ∧
    s.tccrb.getLsbD 3 = true ∧ s.tccra.getLsbD 1 = false ∧ s.tccra.getLsbD 0 = false := by
  rw [State.ctc, beq_iff_eq, BitVec.eq_of_getLsbD_eq_iff]
  simp only [getLsbD_wgm]
  constructor
  · intro h
    exact ⟨h 3 (by decide), h 2 (by decide), h 1 (by decide), h 0 (by decide)⟩
  · rintro ⟨h3, h2, h1, h0⟩ i hi
    interval_cases i <;> simpa

/-- A tick is a match exactly where the counter stands at the threshold. -/
theorem matches_iff {s : State} : s.matches = true ↔ s.tcnt = s.ocr := beq_iff_eq

/-- Settles O47: the three ticks are `tick_of_not_matches`, `tick_of_matches_ctc` and
`tick_of_matches`; CTC in the bits is `ctc_iff`. -/
theorem tickComparesThenCounts : Obligations.TickComparesThenCounts := by
  intro s
  split_ifs with hm hc
  · exact tick_of_matches_ctc (matches_iff.mpr hm) (ctc_iff.mpr hc)
  · exact tick_of_matches (matches_iff.mpr hm) (eq_false_of_ne_true (ctc_iff.not.mpr hc))
  · exact tick_of_not_matches (eq_false_of_ne_true (matches_iff.not.mpr hm))

/-- A tick sets the flag on a match, and never clears it (60_exceptions.md R152, R158). -/
@[simp] theorem tick_ocfa (s : State) : (tick s).ocfa = (s.ocfa || s.matches) := by
  cases hm : s.matches with
  | false => simp [tick_of_not_matches hm]
  | true =>
    cases hc : s.ctc with
    | true => simp [tick_of_matches_ctc hm hc]
    | false => simp [tick_of_matches hm hc]

/-! The edge. -/

/-- A match does not depend on the prescaler. -/
@[simp] theorem setPsc_matches (s : State) (p : Fin 1024) : (s.setPsc p).matches = s.matches := rfl

/-- An edge sets the flag where it ticks on a match, and never clears it. -/
theorem clockEdge_ocfa (s : State) :
    (clockEdge s).ocfa = (s.ocfa || (s.edgeTicks && s.matches)) := by
  cases ht : s.edgeTicks <;> simp [clockEdge, ht]

/-- Every edge moves the prescaler on (60_exceptions.md R151). -/
@[simp] theorem clockEdge_psc (s : State) : (clockEdge s).psc = s.psc + 1 := by
  obtain ⟨c, f, hedge⟩ := clockEdge_writes s
  simp [hedge]

/-- The three low bits of TCCRB as a number. -/
theorem clockSelect_toNat (tccrb : Byte) : (clockSelect tccrb).toNat = (tccrb &&& 7).toNat := by
  rw [clockSelect, BitVec.extractLsb'_toNat, BitVec.toNat_and]
  exact (Nat.and_two_pow_sub_one_eq_mod tccrb.toNat 3).symm

/-- The divisor as R151 lists it, 0 standing for a counter that is stopped. -/
theorem divisor_getD (cs : BitVec 3) : (divisor cs).getD 0 =
    if cs.toNat = 1 then 1 else if cs.toNat = 2 then 8 else if cs.toNat = 3 then 64
      else if cs.toNat = 4 then 256 else if cs.toNat = 5 then 1024 else 0 := by
  revert cs
  decide

/-- Every divisor divides the period of the prescaler, so its wrap shifts no tick. -/
theorem divisor_dvd {cs : BitVec 3} {n : Nat} (h : divisor cs = some n) : n ∣ 1024 := by
  unfold divisor at h
  split at h <;> cases h <;> decide

/-- No divisor is 0. -/
theorem divisor_pos {cs : BitVec 3} {n : Nat} (h : divisor cs = some n) : 0 < n :=
  Nat.pos_of_dvd_of_pos (divisor_dvd h) (by decide)

/-- An edge ticks where the counter is not stopped and the prescaler comes to a multiple of the
divisor. -/
theorem edgeTicks_iff {s : State} : s.edgeTicks = true ↔
    (divisor (clockSelect s.tccrb)).getD 0 ≠ 0 ∧
      (s.psc + 1).val % (divisor (clockSelect s.tccrb)).getD 0 = 0 := by
  unfold State.edgeTicks
  cases hd : divisor (clockSelect s.tccrb) with
  | none => simp
  | some n => simp [(divisor_pos hd).ne']

/-! The edges one after another. -/

/-- `k` edges on, the control bits stand and the prescaler has advanced by `k`. -/
theorem clockEdge_iterate (s : State) (k : Nat) :
    (clockEdge^[k] s).tccrb = s.tccrb ∧ (clockEdge^[k] s).psc.val = (s.psc.val + k) % 1024 := by
  induction k with
  | zero => exact ⟨rfl, (Nat.mod_eq_of_lt s.psc.isLt).symm⟩
  | succ k ih =>
    obtain ⟨htccrb, hpsc⟩ := ih
    rw [Function.iterate_succ_apply']
    obtain ⟨⟨-, -, hkept, -, -⟩, -⟩ := clockEdge_frame (clockEdge^[k] s)
    refine ⟨hkept.trans htccrb, ?_⟩
    rw [clockEdge_psc, Fin.val_add, hpsc]
    simp [Nat.add_assoc]

/-- With the divisor `n`, the edge that comes after `k` others ticks exactly where the prescaler,
counted on without its wrap, comes to a multiple of `n`. -/
theorem edgeTicks_iterate {s : State} {n : Nat} (hn : divisor (clockSelect s.tccrb) = some n)
    (k : Nat) : (clockEdge^[k] s).edgeTicks = true ↔ n ∣ s.psc.val + k + 1 := by
  have hdvd := divisor_dvd hn
  obtain ⟨htccrb, hpsc⟩ := clockEdge_iterate s k
  have hnext : ((clockEdge^[k] s).psc + 1).val % n = (s.psc.val + k + 1) % n := by
    rw [Fin.val_add, hpsc, Nat.mod_mod_of_dvd _ hdvd]
    simp [Nat.add_mod, Nat.mod_mod_of_dvd _ hdvd]
  rw [edgeTicks_iff, htccrb, hn, Option.getD_some, hnext, Nat.dvd_iff_mod_eq_zero]
  exact and_iff_right (divisor_pos hn).ne'

/-- Of the numbers after `p` up to the next multiple of `n`, only the last is one. -/
theorem dvd_add_iff {n p k : Nat} (hk : k < n - p % n) :
    n ∣ p + k + 1 ↔ k = n - p % n - 1 := by
  have hmod : p + k + 1 = n * (p / n) + (p % n + k + 1) := by
    have := Nat.div_add_mod p n
    omega
  rw [hmod, Nat.dvd_add_right (Nat.dvd_mul_right n (p / n))]
  constructor
  · intro hdvd
    have := Nat.le_of_dvd (Nat.succ_pos _) hdvd
    omega
  · intro hlast
    exact dvd_of_eq (by omega)

/-! The step and the prescaler. -/

/-- The CPU's step leaves the prescaler, which runs freely (60_exceptions.md R151): neither an
operation nor a dispatch writes it. -/
theorem step_psc {s t u : State} (h : step s = .next t) (hu : takeTurn s = (.cpu, u))
    (hs : u.stopped = false) : t.psc = u.psc := by
  rcases step_kinds h hu with ⟨hedge, -⟩ | ⟨-, -, -, c, rfl⟩ |
    ⟨-, -, -, w, i, -, -, hx⟩ | ⟨f, r, rfl⟩
  · simp [hs] at hedge
  · rfl
  · exact (exec_frame hx).machine.psc
  · rfl

/-- The clock's step, and every step of a stopped CPU, is the edge (10_state.md R43). -/
theorem step_of_edge {s u : State} {who : Agent} (hu : takeTurn s = (who, u))
    (hedge : who = .clock ∨ u.stopped = true) : step s = .next (clockEdge u) := by
  cases who with
  | clock => simp [step, hu, agentStep]
  | cpu => simp [step, hu, agentStep, hedge.resolve_left (by decide)]

/-- A step that is no edge is the CPU's, with no mark set. -/
theorem not_edge_iff {u : State} {who : Agent} :
    ¬(who = .clock ∨ u.stopped = true) ↔ who = .cpu ∧ u.stopped = false := by
  cases who <;> simp

/-- Settles O48: the edge by `edgeTicks_iff` with the divisors of `divisor_getD`; the prescaler is
not the CPU's (`step_psc`); the first tick by `edgeTicks_iterate`, the wait being up to the next
multiple of the divisor (`dvd_add_iff`). -/
theorem clockEdgeDividesTheClock : Obligations.ClockEdgeDividesTheClock := by
  refine ⟨fun s _ => ?_, fun s t hu => step_of_edge hu (.inl rfl), fun s t hcpu hs h => ?_,
    fun s n hn => ?_⟩
  · simp only [← clockSelect_toNat, ← divisor_getD]
    rw [clockEdge]
    exact if_congr edgeTicks_iff rfl rfl
  · obtain ⟨u, hu⟩ : ∃ u, takeTurn s = (.cpu, u) := ⟨_, Prod.ext hcpu rfl⟩
    obtain ⟨sc, d, rfl⟩ := takeTurn_eq hu
    exact step_psc (u := (s.setSched sc).setDraws d) h hu hs
  · have hphase := Nat.mod_lt s.psc.val (divisor_pos hn)
    refine ⟨by omega, fun k hk => eq_false_of_ne_true ?_, ?_⟩
    · rw [edgeTicks_iterate hn, dvd_add_iff (by omega)]
      omega
    · rw [edgeTicks_iterate hn, dvd_add_iff (by omega)]

/-! The flag. -/

/-- A byte write leaves the flag, but for a 1 in bit 1 of TIFR (20_memory.md R64). -/
theorem WroteByte.ocfa_eq {u t : State} {r : Reg} {v : Byte} (h : WroteByte u t r v)
    (hno : ¬(r = .tifr ∧ v.getLsbD 1 = true)) : t.ocfa = u.ocfa := by
  rw [h.flag, if_neg hno]

/-- The phase about to run writes a 1 to bit 1 of TIFR (60_exceptions.md R160). -/
def State.ClearsFlag (u : State) : Prop :=
  ∃ a v, u.byteWritten = some (a, v) ∧ u.cfg.map a = some .tifr ∧ v.getLsbD 1 = true

/-- An operation phase that does not clear the flag leaves it. -/
theorem exec_ocfa {u t : State} {w : Word} {i : Instr} (hf : u.fetch = some w)
    (hw : decode w = .ok i) (hx : exec i u = .next t) (hno : ¬u.ClearsFlag) :
    t.ocfa = u.ocfa := by
  rcases exec_registers hx with ⟨a, v, r, hp, rfl, hm, hwr⟩ | ⟨op, b, r, hp, hm, hwr⟩ |
    ⟨a, v, -, -, -, -, -, -, hocfa, -⟩ | ⟨-, -, -, hsame⟩
  · refine hwr.ocfa_eq ?_
    rintro ⟨rfl, hv⟩
    exact hno ⟨a, v, byteWritten_wr8 hf hw hp, hm, hv⟩
  · refine hwr.ocfa_eq ?_
    rintro ⟨rfl, hv⟩
    exact hno ⟨op.a, _, byteWritten_second hf hw hp, hm, hv⟩
  · exact hocfa
  · exact hsame.ocfa

/-- A CPU step that is no phase clearing the flag leaves it: a dispatch takes the match without
clearing it (60_exceptions.md R171). -/
theorem step_ocfa {s t u : State} (h : step s = .next t) (hu : takeTurn s = (.cpu, u))
    (hs : u.stopped = false) (hno : u.dispatchDue = false → ¬u.ClearsFlag) :
    t.ocfa = u.ocfa := by
  rcases step_kinds h hu with ⟨hedge, -⟩ | ⟨-, -, -, c, rfl⟩ |
    ⟨-, -, hd, w, i, hf, hw, hx⟩ | ⟨f, r, rfl⟩
  · simp [hs] at hedge
  · rfl
  · exact exec_ocfa hf hw hx (hno hd)
  · rfl

/-- The phase that clears the flag is never refused and never faults: the step has cleared it. -/
theorem step_clears_ocfa {s t u : State} (h : step s = .next t) (hu : takeTurn s = (.cpu, u))
    (hs : u.stopped = false) (hd : u.dispatchDue = false) (hclears : u.ClearsFlag) :
    t.ocfa = false := by
  obtain ⟨a, v, hb, hm, hv⟩ := hclears
  obtain ⟨w, i, hf, hw, hx⟩ := exec_of_byteWritten hb
  rw [storeByte_of_writeReg (r := .tifr) hm rfl] at hx
  rw [step_eq_cpuPhase hu hs hd, cpuPhase_of_decode hf hw, hx] at h
  cases h
  simp [advance_eq, ocfaAfterWrite, hv]

/-- A due dispatch is due with the flag set (60_exceptions.md R165, R166). -/
theorem dispatchDue_ocfa {s : State} (h : s.dispatchDue = true) : s.ocfa = true := by
  simp only [State.dispatchDue, State.irq, Bool.and_eq_true] at h
  obtain ⟨-, hocfa, -⟩ := h
  exact hocfa

/-- Settles O17: an edge sets the flag on a match and only then (`clockEdge_ocfa`); the CPU's step
clears it in the phase that writes the 1 (`step_clears_ocfa`) and else leaves it (`step_ocfa`). -/
theorem flagFollowsItsStateMachine : Obligations.FlagFollowsItsStateMachine := by
  intro s t u who h hu edge matched cleared
  have hkept : u.ocfa = s.ocfa := by
    obtain ⟨sc, d, rfl⟩ := takeTurn_eq hu
    rfl
  have hedge (he : edge) : t.ocfa = (u.ocfa || (u.edgeTicks && u.matches)) := by
    have ht : clockEdge u = t := by simpa [h] using (step_of_edge hu he).symm
    rw [← ht, clockEdge_ocfa]
  refine ⟨?_, ?_, fun hm hc => ?_, fun hd => hkept ▸ dispatchDue_ocfa hd⟩
  · rintro ⟨he, ht, hm⟩
    simp [hedge he, ht, matches_iff.mpr hm]
  · rintro ⟨hne, hd, hclears⟩
    obtain ⟨rfl, hs⟩ := not_edge_iff.mp hne
    exact step_clears_ocfa h hu hs hd hclears
  · by_cases he : edge
    · have hno : (u.edgeTicks && u.matches) = false :=
        eq_false_of_ne_true fun hx => hm ⟨he, by simpa [matches_iff] using hx⟩
      rw [hedge he, hno, Bool.or_false, hkept]
    · obtain ⟨rfl, hs⟩ := not_edge_iff.mp he
      rw [← hkept]
      exact step_ocfa h hu hs fun hd hclears => hc ⟨he, hd, hclears⟩

/-! The dispatch. -/

/-- Where the CPU moves, nothing has stopped it and a dispatch is due, the step is the dispatch,
whatever phase main is in (60_exceptions.md R170). -/
theorem step_eq_dispatchStep {s t : State} (hu : takeTurn s = (.cpu, t)) (hs : t.stopped = false)
    (hd : t.dispatchDue = true) : step s = dispatchStep t := by
  simp [step, hu, agentStep, hs, cpuStep, hd]

/-- With HANDLER_ENTRY bound the dispatch goes to the handler afresh (60_exceptions.md R171). -/
theorem dispatchStep_of_bound {t : State} {entry : Index}
    (he : t.cfg.handlerEntry = some entry) : dispatchStep t =
      .next { t with hdl := Context.fresh (Index.toPc entry), i := false, ctx := .handler } := by
  simp [dispatchStep, dispatch_eq, he]

/-- With HANDLER_ENTRY unbound the dispatch leaves the record of F_NO_HANDLER and nothing else. -/
theorem dispatchStep_of_unbound {t : State} (he : t.cfg.handlerEntry = none) :
    dispatchStep t = .next (t.raiseFault .noHandler none) := by
  simp [dispatchStep, dispatch_eq, he]

/-- Settles O13: the step is the dispatch (`step_eq_dispatchStep`), to the handler or to the record
of F_NO_HANDLER, which names main: there a dispatch is due. -/
theorem dueDispatchIsTaken : Obligations.DueDispatchIsTaken := by
  intro s t hu hs hd
  rw [step_eq_dispatchStep hu hs hd]
  refine ⟨fun entry he => dispatchStep_of_bound he, fun he => ?_⟩
  obtain ⟨hctx, -⟩ := dispatchDue_main hd
  have hrecord : t.raiseFault .noHandler none =
      t.setFault (some ⟨.noHandler, .main, t.main.pc, none⟩) := by
    rw [State.raiseFault, hctx, cur_main hctx]
  rw [dispatchStep_of_unbound he, hrecord]
  rfl

end Sys2Proof.Machine

/-! SUPPORT. The encoding read backwards (30_encoding.md R80 to R89), and the assembler (R91, R92):
every word whose fields fit is the word of an operation. -/

namespace Sys2Proof

/-! Decode and encode. -/

/-- Settles O1: `decode_encode`. -/
theorem decodeOfEncodeIsTheOperation : Obligations.DecodeOfEncodeIsTheOperation :=
  decode_encode

/-- Fields that fit the format of an operation are the word of one with that mnemonic. -/
theorem exists_encode_of_fits {m : Mnemonic} {a : Addr} {k : U16} (h : m.format.Fits a k) :
    ∃ i, encode i = fieldsWord m.op a k := by
  have hb (hm : m.format = .b) (op : BitVec 4) :
      fieldsWord op a ((k.extractLsb' 0 8).zeroExtend 16) = fieldsWord op a k := by
    rw [hm] at h
    rw [zeroExtend_lo h]
  cases m with
  | wr8 => exact ⟨.wr8 a (k.extractLsb' 0 8), hb rfl _⟩
  | setb => exact ⟨.setb a (k.extractLsb' 0 8), hb rfl _⟩
  | clrb => exact ⟨.clrb a (k.extractLsb' 0 8), hb rfl _⟩
  | tglb => exact ⟨.tglb a (k.extractLsb' 0 8), hb rfl _⟩
  | wr16 => exact ⟨.wr16 a k, rfl⟩
  | rd8 => obtain rfl : k = 0 := h; exact ⟨.rd8 a, rfl⟩
  | rd16 => obtain rfl : k = 0 := h; exact ⟨.rd16 a, rfl⟩
  | cli => obtain ⟨rfl, rfl⟩ : a = 0 ∧ k = 0 := h; exact ⟨.cli, rfl⟩
  | sei => obtain ⟨rfl, rfl⟩ : a = 0 ∧ k = 0 := h; exact ⟨.sei, rfl⟩
  | idis => obtain ⟨rfl, rfl⟩ : a = 0 ∧ k = 0 := h; exact ⟨.idis, rfl⟩
  | irst => obtain ⟨rfl, rfl⟩ : a = 0 ∧ k = 0 := h; exact ⟨.irst, rfl⟩
  | reti => obtain ⟨rfl, rfl⟩ : a = 0 ∧ k = 0 := h; exact ⟨.reti, rfl⟩
  | jmp => obtain rfl : a = 0 := h; exact ⟨.jmp k, rfl⟩

/-- Settles O2: a word that decodes has fields that fit (`decode_ok_iff`), so it is the word of some
operation, which is the one it decodes to (`decode_encode`). -/
theorem encodeOfDecodeIsTheWord : Obligations.EncodeOfDecodeIsTheWord := by
  intro w i hi
  obtain ⟨ho, hf⟩ := decode_ok_iff.mp ⟨i, hi, rfl⟩
  obtain ⟨j, hj⟩ := exists_encode_of_fits hf
  rw [← ho, fieldsWord_fields] at hj
  obtain rfl : j = i := by simpa [← hj, decode_encode] using hi
  exact hj

/-- Settles O5: each is the word of its operation, written out. -/
theorem writtenOutWordsDecode : Obligations.WrittenOutWordsDecode :=
  ⟨decode_encode (.wr8 0x036 0x02), decode_encode (.wr16 0x088 0x3D08), decode_encode (.rd8 0x085),
    decode_encode (.setb 0x081 0x0C), decode_encode .irst, decode_encode (.jmp 0x000A)⟩

end Sys2Proof

namespace Sys2Proof.Machine

/-! The assembler. -/

/-- A line with an operand outside its field is rejected. -/
theorem asmStmt_of_not_wf {st : AsmStmt} (h : st.wf = false) (p : Params)
    (labels : List (String × Nat)) (here : Nat) : asmStmt p labels here st = .error .range := by
  simp [asmStmt, h]

/-- WR16LH of a value that fits writes the low byte, then the high byte. -/
theorem asmStmt_wr16lh {v : AsmImm} (h : v.value < 65536) (p : Params)
    (labels : List (String × Nat)) (here : Nat) (x : WordReg) :
    asmStmt p labels here (.wr16lh x v) =
      .ok [.wr8 (p.wordAddrOf x) (BitVec.ofNat 8 (v.value &&& 0xFF)),
        .wr8 (p.wordAddrOf x + 1) (BitVec.ofNat 8 (v.value >>> 8))] := by
  simp [asmStmt, AsmStmt.wf, AsmImm.fits, h]

/-- A jump line that is not rejected is one operation. -/
theorem length_of_map_jmp {r : Except AsmError Index} {is : List Instr}
    (h : r.map (fun i => [Instr.jmp i]) = .ok is) : is.length = 1 := by
  cases r <;> cases h
  rfl

/-- A line gives as many operations as it has slots (30_encoding.md R92). -/
theorem asmStmt_length {p : Params} {labels : List (String × Nat)} {here : Nat} {st : AsmStmt}
    {is : List Instr} {name : Option String} (h : asmStmt p labels here st = .ok is) :
    is.length = asmSlots ⟨name, some st⟩ := by
  unfold asmStmt at h
  split at h
  · cases st with
    | jmp | idle => exact length_of_map_jmp h
    | _ => cases h; rfl
  · cases h

/-- A text gives as many operations as its lines have slots. -/
theorem asmLines_length {p : Params} {labels : List (String × Nat)} {ls : List AsmLine}
    {here : Nat} {is : List Instr} (h : asmLines p labels here ls = .ok is) :
    is.length = (ls.map asmSlots).sum := by
  induction ls generalizing here is with
  | nil => cases h; rfl
  | cons l ls ih =>
    obtain ⟨name, _ | st⟩ := l
    · simpa [asmSlots] using ih h
    · simp only [asmLines] at h
      split at h <;> cases h
      next hst hrest =>
        rw [List.length_append, asmStmt_length hst, ih hrest, List.map_cons, List.sum_cons]

/-- The words of a text are those of its operations, where no label is defined twice. -/
theorem assemble_eq_ok {p : Params} {ls : List AsmLine} {ws : List Word}
    (h : assemble p ls = .ok ws) :
    ∃ is, asmLines p (asmLabels 0 ls) 0 ls = .ok is ∧ ws = is.map encode := by
  simp only [assemble] at h
  split at h
  · cases h
  · cases hl : asmLines p (asmLabels 0 ls) 0 ls with
    | ok is => rw [hl] at h; cases h; exact ⟨is, rfl, rfl⟩
    | error e => rw [hl] at h; cases h

/-- Settles O59: rejection by `asmStmt_of_not_wf`, the expansions by the branches of `asmStmt`, the
length by `asmLines_length`; a word that is encoded decodes (`decode_encode`). -/
theorem assemblerExpandsAndRejects : Obligations.AssemblerExpandsAndRejects := by
  refine ⟨fun p labels here st h => asmStmt_of_not_wf h p labels here,
    fun p labels here hhere => ⟨?_, rfl, rfl, fun v hv =>
      ⟨asmStmt_wr16lh hv p labels here .ocr, asmStmt_wr16lh hv p labels here .tcnt⟩⟩,
    fun p ls ws h => ?_⟩
  · simp only [asmStmt, AsmStmt.wf, asmTarget, hhere, if_true]
    rfl
  · obtain ⟨is, his, rfl⟩ := assemble_eq_ok h
    refine ⟨by rw [List.length_map, asmLines_length his], fun w hw => ?_⟩
    obtain ⟨i, -, rfl⟩ := List.mem_map.mp hw
    exact ⟨i, decode_encode i⟩

end Sys2Proof.Machine

/-! SUPPORT. The address map (20_memory.md R60, R61, 00_scope.md R7), the accesses outside it, and
the word write as its two byte writes (R67). -/

namespace Sys2Proof

/-- An address is unmapped exactly when it is none of the ten (20_memory.md R60, R61). -/
theorem map_eq_none_iff_not_mem {p : Params} {a : Addr} :
    p.map a = none ↔ a ∉ [p.aTcnt, p.aTcnt + 1, p.aOcr, p.aOcr + 1, p.aTccra, p.aTccrb,
      p.aTimsk, p.aTifr, p.aDdr, p.aPort] := by
  have hten : [p.aTcnt, p.aTcnt + 1, p.aOcr, p.aOcr + 1, p.aTccra, p.aTccrb, p.aTimsk, p.aTifr,
      p.aDdr, p.aPort] = Reg.all.map p.addrOf := rfl
  rw [map_eq_none, hten, List.mem_map]
  simp [Reg.mem_all]

/-- Settles O27: each register's address names it (`map_addrOf`), and the ten are all
(`map_eq_none_iff_not_mem`). -/
theorem addressMapIsTheTenBytes : Obligations.AddressMapIsTheTenBytes := by
  intro p hwf
  have hmap := map_addrOf (wf_addrsDistinct hwf)
  exact ⟨⟨hmap .tcntL, hmap .tcntH, hmap .ocrL, hmap .ocrH, hmap .tccra, hmap .tccrb, hmap .timsk,
    hmap .tifr, hmap .ddr, hmap .port⟩, fun a => map_eq_none_iff_not_mem⟩

end Sys2Proof

namespace Sys2Proof.Machine

/-- An unmapped address is no word register's. -/
theorem ne_wordAddrOf_of_unmapped {p : Params} {a : Addr} (h : p.map a = none) :
    a ≠ p.aTcnt ∧ a ≠ p.aOcr :=
  ⟨(map_eq_none.mp h .tcntL).symm, (map_eq_none.mp h .ocrL).symm⟩

/-- A read-modify-write at an unmapped address faults in its first phase. -/
theorem exec_rmw_first_unmapped {s : State} {i : Instr} {kind : RmwKind} {a : Addr} {m : Byte}
    (hi : i.rmw? = some ⟨kind, a, m⟩) (hp : s.cur.ph = .first) (hm : s.cfg.map a = none) :
    exec i s = .fault (.unmapped a) := by
  simp only [exec_rmw_first hp hi, readPhase_eq, hm]

/-- Settles O26: each access faults as its read or its write does. -/
theorem unmappedAddressesFault : Obligations.UnmappedAddressesFault := by
  intro s a hm
  obtain ⟨ht, ho⟩ := ne_wordAddrOf_of_unmapped hm
  refine ⟨fun hp => ⟨exec_rd8_unmapped hp hm, ?_, fun v => ?_, fun v => ?_,
    fun _ => exec_rmw_first_unmapped rfl hp hm, fun _ => exec_rmw_first_unmapped rfl hp hm,
    fun _ => exec_rmw_first_unmapped rfl hp hm⟩, ?_⟩
  · rw [exec_rd16_first hp, if_neg ht, if_neg ho, if_neg (not_not.mpr hm)]
  · rw [exec_wr8_first hp, storeByte_unmapped hm]
  · rw [exec_wr16_first hp, if_neg ht, if_neg ho, if_neg (not_not.mpr hm)]
  · rintro i op v - rfl hp
    rw [exec_second hp]
    exact storeByte_unmapped hm

/-- A word register written byte by byte, the low half and then the high half, holds the word. -/
theorem withHi_withLo (w v : U16) :
    withHi (withLo w (v.extractLsb' 0 8)) (v.extractLsb' 8 8) = v := by
  rw [withHi, loByte_withLo]
  exact hi_append_lo v

/-- Settles O32: the two byte writes are of the two halves (`map_addrOf`), which make up the word
(`withHi_withLo`). -/
theorem wordWriteIsLowThenHighByte : Obligations.WordWriteIsLowThenHighByte := by
  intro s a v hwf ha
  have hmap := map_addrOf (wf_addrsDistinct hwf)
  rw [regWrite16_eq]
  rcases ha with rfl | rfl
  · refine ⟨_, _, regWrite8_next.mpr ⟨.tcntL, hmap .tcntL, rfl⟩,
      regWrite8_next.mpr ⟨.tcntH, hmap .tcntH, rfl⟩, ?_⟩
    rw [if_pos rfl, setTcnt_tcnt, withHi_withLo]
    rfl
  · have hne : s.cfg.aOcr ≠ s.cfg.aTcnt := fun h => by
      cases addrOf_injective (r := .ocrL) (r' := .tcntL) (wf_addrsDistinct hwf) h
    refine ⟨_, _, regWrite8_next.mpr ⟨.ocrL, hmap .ocrL, rfl⟩,
      regWrite8_next.mpr ⟨.ocrH, hmap .ocrH, rfl⟩, ?_⟩
    rw [if_neg hne, if_pos rfl, setOcr_ocr, withHi_withLo]
    rfl

end Sys2Proof.Machine

/-! SUPPORT. The counter over many ticks and edges (60_exceptions.md R153 to R159), its modes
(10_state.md R39), and the pin (R37). -/

namespace Sys2Proof.Machine

/-! The tick, field by field. -/

/-- A tick counts up modulo 2^16, but for a match in CTC, which returns to 0. -/
theorem tick_tcnt (s : State) :
    (tick s).tcnt = if (s.matches && s.ctc) = true then 0 else s.tcnt + 1 := by
  cases hm : s.matches with
  | false => simp [tick_of_not_matches hm]
  | true =>
    cases hc : s.ctc with
    | true => simp [tick_of_matches_ctc hm hc]
    | false => simp [tick_of_matches hm hc]

/-- Ticks leave OCR and the mode. -/
theorem tick_iterate_frame (s : State) (n : Nat) :
    (tick^[n] s).ocr = s.ocr ∧ (tick^[n] s).ctc = s.ctc := by
  induction n with
  | zero => exact ⟨rfl, rfl⟩
  | succ n ih =>
    obtain ⟨c, f, hw⟩ := tick_writes (tick^[n] s)
    rw [Function.iterate_succ_apply', hw]
    exact ih

/-- The match at the tick after `n` others, in numbers. -/
theorem matches_iterate (s : State) (n : Nat) :
    (tick^[n] s).matches = true ↔ (tick^[n] s).tcnt.toNat = s.ocr.toNat := by
  rw [matches_iff, (tick_iterate_frame s n).1, BitVec.toNat_inj]

/-- Counting on by 1 modulo `t + 1`: from `t` to 0, else up. -/
theorem add_one_mod_add_one (m t : Nat) :
    (m + 1) % (t + 1) = if m % (t + 1) = t then 0 else m % (t + 1) + 1 := by
  have hlt := Nat.mod_lt m (Nat.add_one_pos t)
  have hsplit : m + 1 = (t + 1) * (m / (t + 1)) + (m % (t + 1) + 1) := by
    rw [← Nat.add_assoc, Nat.div_add_mod]
  rw [hsplit, Nat.mul_add_mod]
  split_ifs with ht
  · rw [ht, Nat.mod_self]
  · exact Nat.mod_eq_of_lt (by omega)

/-- In CTC, from at most the threshold, the counter runs modulo the threshold plus 1. -/
theorem tick_iterate_tcnt_of_ctc {s : State} (hc : s.ctc = true)
    (hle : s.tcnt.toNat ≤ s.ocr.toNat) (n : Nat) :
    (tick^[n] s).tcnt.toNat = (s.tcnt.toNat + n) % (s.ocr.toNat + 1) := by
  induction n with
  | zero => exact (Nat.mod_eq_of_lt (Nat.lt_succ_of_le hle)).symm
  | succ n ih =>
    have hmatch := matches_iterate s n
    have hlt := Nat.mod_lt (s.tcnt.toNat + n) (Nat.add_one_pos s.ocr.toNat)
    have hocr := s.ocr.isLt
    rw [ih] at hmatch
    rw [Function.iterate_succ_apply', tick_tcnt, (tick_iterate_frame s n).2, hc, Bool.and_true,
      ← Nat.add_assoc, add_one_mod_add_one]
    simp only [hmatch]
    split_ifs
    · rfl
    · rw [BitVec.toNat_add, ih]
      exact Nat.mod_eq_of_lt (by simp; omega)

/-- Counting on by 1, a count above `t` was above it already or stood at `t` modulo `t + 1`: it
first passes `t` from `t` itself. -/
theorem lt_add_one_iff_lt_or_mod (m t : Nat) : t < m + 1 ↔ t < m ∨ m % (t + 1) = t := by
  constructor
  · intro h
    rcases Nat.lt_or_ge t m with hlt | hge
    · exact .inl hlt
    · exact .inr (by rw [Nat.mod_eq_of_lt] <;> omega)
  · have := Nat.mod_le m (t + 1)
    omega

/-- Settles O50: the counter by `tick_iterate_tcnt_of_ctc`; the flag is set by the first match, and
that is where the count passes the threshold (`lt_add_one_iff_lt_or_mod`). -/
theorem ctcMatchesEveryThresholdPlusOneTicks :
    Obligations.CtcMatchesEveryThresholdPlusOneTicks := by
  intro s n hc hle
  have htcnt := tick_iterate_tcnt_of_ctc hc hle
  have hmatch (n : Nat) : (tick^[n] s).matches = true ↔
      (s.tcnt.toNat + n) % (s.ocr.toNat + 1) = s.ocr.toNat := by
    rw [matches_iterate, htcnt]
  refine ⟨htcnt n, hmatch n, ?_⟩
  induction n with
  | zero => simp [hle]
  | succ n ih =>
    rw [Function.iterate_succ_apply', tick_ocfa, ih, Bool.or_assoc, Bool.eq_iff_iff]
    simp only [Bool.or_eq_true, decide_eq_true_eq, hmatch, ← Nat.add_assoc,
      lt_add_one_iff_lt_or_mod]

/-- While no tick returns the counter to 0, it counts up modulo 2^16. -/
theorem tick_iterate_tcnt {s : State} {n : Nat}
    (h : ∀ k < n, ((tick^[k] s).matches && s.ctc) = false) :
    (tick^[n] s).tcnt.toNat = (s.tcnt.toNat + n) % 65536 := by
  induction n with
  | zero => exact (Nat.mod_eq_of_lt s.tcnt.isLt).symm
  | succ n ih =>
    have hno := h n (Nat.lt_succ_self n)
    have hcount := ih fun k hk => h k (by omega)
    rw [Function.iterate_succ_apply', tick_tcnt, (tick_iterate_frame s n).2, hno,
      if_neg Bool.false_ne_true, BitVec.toNat_add, hcount]
    simp [Nat.add_assoc]

/-- Normal mode is not CTC. -/
theorem ctc_of_normal {s : State} (h : s.normal = true) : s.ctc = false := by
  simp_all [State.normal, State.ctc]

/-- Settles O51: outside CTC no tick returns the counter to 0 (`tick_iterate_tcnt`). -/
theorem normalMatchesEvery65536Ticks : Obligations.NormalMatchesEvery65536Ticks := by
  intro s n hn
  have htcnt : (tick^[n] s).tcnt.toNat = (s.tcnt.toNat + n) % 65536 :=
    tick_iterate_tcnt fun k _ => by rw [ctc_of_normal hn, Bool.and_false]
  exact ⟨htcnt, by rw [matches_iterate, htcnt]⟩

/-- Settles O52: as long as there was no match the counter counts up modulo 2^16
(`tick_iterate_tcnt`), so the first match is where that count comes to the threshold. -/
theorem thresholdBelowTheCounterWaitsForTheWrap :
    Obligations.ThresholdBelowTheCounterWaitsForTheWrap := by
  intro s hlt
  have htcnt := s.tcnt.isLt
  have hbefore (n : Nat) (hn : n < 65536 - s.tcnt.toNat + s.ocr.toNat) :
      (tick^[n] s).matches = false := by
    induction n using Nat.strong_induction_on with
    | _ n ih =>
      have hcount := tick_iterate_tcnt (s := s) (n := n)
        fun k hk => by rw [ih k hk (by omega), Bool.false_and]
      refine eq_false_of_ne_true fun hm => ?_
      have := (matches_iterate s n).mp hm
      omega
  refine ⟨hbefore, ?_⟩
  rw [matches_iterate, tick_iterate_tcnt fun k hk => by rw [hbefore k hk, Bool.false_and]]
  omega

/-! The edges. -/

/-- Settles O49: an edge writes the three (`clockEdge_writes`), and never clears the flag
(`clockEdge_ocfa`). -/
theorem clockEdgeTouchesOnlyTheCounter : Obligations.ClockEdgeTouchesOnlyTheCounter := by
  intro s
  obtain ⟨c, f, hw⟩ := clockEdge_writes s
  refine ⟨c, f, hw, fun hocfa => ?_⟩
  calc f = (clockEdge s).ocfa := by simp [hw]
    _ = true := by rw [clockEdge_ocfa, hocfa, Bool.true_or]

/-- With no clock selected no edge ticks (60_exceptions.md R156). -/
theorem clockEdge_of_stopped {s : State} (h : s.tccrb &&& 7 = 0) :
    clockEdge s = s.setPsc (s.psc + 1) := by
  have hcs : (clockSelect s.tccrb).toNat = 0 := by rw [clockSelect_toNat, h]; rfl
  have ht : s.edgeTicks = false := by simp [State.edgeTicks, divisor, hcs]
  simp [clockEdge, ht]

/-- Settles O53: each edge moves the prescaler on and writes nothing else (`clockEdge_of_stopped`);
the prescaler's value is that of `clockEdge_iterate`. -/
theorem stoppedCounterHolds : Obligations.StoppedCounterHolds := by
  intro s n h
  have hmoved : ∃ p, clockEdge^[n] s = s.setPsc p := by
    induction n with
    | zero => exact ⟨s.psc, rfl⟩
    | succ n ih =>
      obtain ⟨p, hp⟩ := ih
      exact ⟨p + 1, by rw [Function.iterate_succ_apply', hp]; exact clockEdge_of_stopped h⟩
  obtain ⟨p, hp⟩ := hmoved
  refine ⟨p, hp, ?_⟩
  obtain ⟨-, hpsc⟩ := clockEdge_iterate s n
  rwa [hp] at hpsc

/-! The modes and the pin. -/

/-- Settles O54: TCCRA is 0 and bit 4 of TCCRB is 0, so only bit 3 of TCCRB is left of the mode. -/
theorem onlyNormalAndCtcOccur : Obligations.OnlyNormalAndCtcOccur := by
  intro s h
  simp only [State.legalControls, tccraAdmits, tccrbAdmits, Bool.and_eq_true, beq_iff_eq,
    Bool.not_eq_eq_eq_not, Bool.not_true] at h
  obtain ⟨⟨ha, ⟨-, hb⟩, -⟩, -⟩ := h
  have hmode (b : Bool) (h3 : s.tccrb.getLsbD 3 = b) :
      wgm s.tccra s.tccrb = if b then 0b0100#4 else 0b0000#4 := by
    apply BitVec.eq_of_getLsbD_eq
    intro i hi
    rw [getLsbD_wgm, ha]
    interval_cases i
    · cases b <;> rfl
    · cases b <;> rfl
    · cases b <;> exact h3
    · cases b <;> exact hb
  exact ⟨hmode false, hmode true⟩

/-- Settles O55: the definition of the pin's level, with OUT_BIT of DDR and PORT written out. -/
theorem drivenPinShowsThePort : Obligations.DrivenPinShowsThePort :=
  fun _ _ => rfl

/-! The dispatch. -/

/-- Settles O12: DispatchDue is main, I and the request, and the request is OCFA and OCIEA
(60_exceptions.md R165). -/
theorem dispatchDueIsTheFourConditions : Obligations.DispatchDueIsTheFourConditions := by
  intro s
  simp only [State.dispatchDue, State.irq, State.ociea, Bool.and_eq_true, beq_iff_eq]
  tauto

end Sys2Proof.Machine

/-! SUPPORT. What every step keeps (10_state.md R40, R43, R44, R47): the step is total, a stopped
CPU does not move, no step writes a parameter, and the invariant of the block. -/

namespace Sys2Proof.Machine

/-! A step exists. -/

/-- An operation that is refused is refused with a code of the spec (60_exceptions.md R181). -/
theorem exec_refused {i : Instr} {s : State} {e : Refusal} (h : exec i s = .refused e) :
    ∃ c, e = .refuse c := by
  have hbyte {a v} (h : thenDo (regWrite8 a v s) State.advance = .refused e) :
      ∃ c, e = .refuse c := by
    obtain ⟨-, c, -, -, rfl⟩ := (regWrite8_stop.2 e).mp (thenDo_refused_iff.mp h)
    exact ⟨c, rfl⟩
  cases hp : s.cur.ph with
  | second op v => exact hbyte (exec_second hp i ▸ h)
  | first =>
    cases i with
    | wr8 a v => exact hbyte (exec_wr8_first hp ▸ h)
    | wr16 a v => rw [exec_wr16_first hp] at h; split_ifs at h
    | rd8 a =>
      cases hm : s.cfg.map a with
      | none => simp [exec_rd8_unmapped hp hm] at h
      | some r => obtain ⟨t, hx, -⟩ := exec_rd8_mapped hp hm; simp [hx] at h
    | rd16 a => rw [exec_rd16_first hp] at h; split_ifs at h
    | setb | clrb | tglb =>
      rw [exec_rmw_first hp rfl, readPhase_eq] at h
      split at h <;> cases h
    | cli => simp [exec_cli_first hp] at h
    | sei =>
      cases hc : s.ctx with
      | main => simp [exec_sei_main hp hc] at h
      | handler => rw [exec_sei_handler hp hc] at h; cases h; exact ⟨_, rfl⟩
    | idis => simp [exec_idis_first hp] at h
    | irst =>
      cases hsv : s.cur.sv with
      | none => simp [exec_irst_unsaved hp hsv] at h
      | some b =>
        rw [exec_irst_saved hp hsv] at h
        split_ifs at h
        cases h
        exact ⟨_, rfl⟩
    | reti =>
      cases hc : s.ctx with
      | main => simp [exec_reti_main hp hc] at h
      | handler => simp [exec_reti_handler hp hc] at h
    | jmp target => simp [exec_jmp_first target hp] at h

/-- Whatever an operation answers, the state after it is settled. -/
theorem exists_settle_exec (w : Word) (i : Instr) (s : State) :
    ∃ t, settle w s (exec i s) = .next t := by
  cases hx : exec i s with
  | next t => exact ⟨t, rfl⟩
  | fault f => exact ⟨_, rfl⟩
  | refused e => obtain ⟨c, rfl⟩ := exec_refused hx; exact ⟨_, rfl⟩

/-- An operation phase has a next state (40_register_access.md R100). -/
theorem exists_cpuPhase (s : State) : ∃ t, cpuPhase s = .next t := by
  cases hf : s.fetch with
  | none => exact ⟨_, cpuPhase_of_no_word hf⟩
  | some w =>
    cases hw : decode w with
    | error r => exact ⟨_, cpuPhase_of_illegal hf hw⟩
    | ok i => rw [cpuPhase_of_decode hf hw]; exact exists_settle_exec w i s

/-- A dispatch has a next state (60_exceptions.md R171). -/
theorem exists_dispatchStep (s : State) : ∃ t, dispatchStep s = .next t := by
  cases he : s.cfg.handlerEntry with
  | none => exact ⟨_, dispatchStep_of_unbound he⟩
  | some entry => exact ⟨_, dispatchStep_of_bound he⟩

/-- Settles O9: each of the three kinds of step has a next state. -/
theorem everyStateHasANextStep : Obligations.EveryStateHasANextStep := by
  intro s
  rcases hu : takeTurn s with ⟨who, u⟩
  by_cases hedge : who = .clock ∨ u.stopped = true
  · exact ⟨_, step_of_edge hu hedge⟩
  obtain ⟨rfl, hs⟩ := not_edge_iff.mp hedge
  cases hd : u.dispatchDue with
  | true => rw [step_eq_dispatchStep hu hs hd]; exact exists_dispatchStep u
  | false => rw [step_eq_cpuPhase hu hs hd]; exact exists_cpuPhase u

/-! What a step leaves. -/

/-- Settles O10: the turn of a stopped CPU is an edge (`step_of_edge`), which writes PSC, TCNT and
OCFA only (`clockEdge_writes`). -/
theorem stoppedCpuNeverMoves : Obligations.StoppedCpuNeverMoves := by
  intro s hs
  obtain ⟨sc, d, hu⟩ := takeTurn_writes s
  have hedge : step s = .next (clockEdge (takeTurn s).2) :=
    step_of_edge rfl (.inr (by rw [hu]; exact hs))
  refine ⟨hedge, fun t ht => ?_⟩
  obtain rfl : clockEdge (takeTurn s).2 = t := by simpa [hedge] using ht
  obtain ⟨c, f, hw⟩ := clockEdge_writes (takeTurn s).2
  rw [hw, hu]
  exact ⟨rfl, rfl, rfl, rfl, rfl, rfl, rfl, rfl⟩

/-- Settles O11: neither an edge, nor a dispatch, nor an operation (`exec_frame`), nor a mark writes
a parameter. -/
theorem parametersNeverChange : Obligations.ParametersNeverChange := by
  intro s t h
  rcases hu : takeTurn s with ⟨who, u⟩
  obtain ⟨sc, d, hsu⟩ := takeTurn_eq hu
  have hcfg : u.cfg = s.cfg := by simp [hsu]
  rcases step_kinds h hu with ⟨-, rfl⟩ | ⟨-, -, -, c, rfl⟩ | ⟨-, -, -, w, i, -, -, hx⟩ | ⟨f, r, rfl⟩
  · obtain ⟨c, f, hw⟩ := clockEdge_writes u
    simp [hw, hcfg]
  · exact hcfg
  · exact (exec_frame hx).machine.cfg.trans hcfg
  · exact hcfg

/-- A step writes the record of no context but the running one, unless it is the dispatch, which
makes the handler's. -/
theorem step_other_record {s t : State} {k : Ctx} (h : step s = .next t) (hk : s.ctx ≠ k) :
    t.record k = s.record k ∨
      (k = .handler ∧ t.ctx = .handler ∧ t.record .main = s.record .main) := by
  rcases hu : takeTurn s with ⟨who, u⟩
  obtain ⟨sc, d, hsu⟩ := takeTurn_eq hu
  have hctx : u.ctx = s.ctx := by simp [hsu]
  have hrec (k : Ctx) : u.record k = s.record k := by rw [hsu]; cases k <;> rfl
  rcases step_kinds h hu with ⟨-, rfl⟩ | ⟨-, -, -, c, rfl⟩ | ⟨-, -, -, w, i, -, -, hx⟩ | ⟨f, r, rfl⟩
  · exact .inl ((clockEdge_record u k).trans (hrec k))
  · cases k with
    | main => exact .inl (hrec .main)
    | handler => exact .inr ⟨rfl, rfl, hrec .main⟩
  · exact .inl (((exec_frame hx).other.record_eq (hctx ▸ hk)).trans (hrec k))
  · exact .inl (hrec k)

/-- Settles O16: `step_other_record`, for the main record in the handler and the handler's record in
main. -/
theorem handlerNeverWritesMain : Obligations.HandlerNeverWritesMain := by
  refine fun s t h => ⟨fun hc => ?_, fun hc hne => ?_⟩
  · rcases step_other_record (k := .main) h (by simp [hc]) with hkept | ⟨hk, -⟩
    · exact hkept
    · cases hk
  · rcases step_other_record (k := .handler) h (by simp [hc]) with hkept | ⟨-, hctx, hmain⟩
    · exact absurd hkept hne
    · exact ⟨hctx, hmain⟩

/-! The invariant, clause by clause, over an operation that completes. -/

/-- An operation that completes stores a byte that its register takes, or leaves the control
registers, PORT and the trace. -/
theorem exec_stores {i : Instr} {s t : State} (h : exec i s = .next t) :
    (∃ r v, refusalOf r v = none ∧ WroteByte s t r v) ∨
      (t.tccra = s.tccra ∧ t.tccrb = s.tccrb ∧ t.timsk = s.timsk ∧ t.port = s.port ∧
        t.trace = s.trace) := by
  have hbyte {a v} (h : thenDo (regWrite8 a v s) State.advance = .next t) :
      ∃ r v, refusalOf r v = none ∧ WroteByte s t r v := by
    obtain ⟨u, hw, rfl⟩ := thenDo_next_iff.mp h
    obtain ⟨r, -, hu⟩ := regWrite8_next.mp hw
    exact ⟨r, v, writeReg_ok_iff.mp ⟨u, hu⟩, (writeReg_wrote hu).advanced⟩
  rcases exec_registers h with ⟨a, v, r, hp, rfl, -⟩ | ⟨op, b, r, hp, -⟩ |
    ⟨a, v, -, -, -, ha, hb, hm, -, -, hport, htrace⟩ | ⟨-, -, -, hsame⟩
  · exact .inl (hbyte (exec_wr8_first hp ▸ h))
  · exact .inl (hbyte (exec_second hp i ▸ h))
  · exact .inr ⟨ha, hb, hm, hport, htrace⟩
  · exact .inr ⟨hsame.tccra, hsame.tccrb, hsame.timsk, hsame.port, hsame.trace⟩

/-- The admitted values of the control registers are those that are not refused. -/
theorem admits_iff (v : Byte) : (tccraAdmits v = true ↔ refusalOf .tccra v = none) ∧
    (tccrbAdmits v = true ↔ refusalOf .tccrb v = none) ∧
    (timskAdmits v = true ↔ refusalOf .timsk v = none) := by
  simp only [← writeReg_ok_iff (s := State.reset), State.writeReg]
  refine ⟨?_, ?_, ?_⟩ <;> split <;> simp_all

/-- The control registers hold admitted values, said by the spec's refusals: no register holds a
byte that it would not take. -/
theorem legalControls_iff {s : State} :
    s.legalControls = true ↔ ∀ r b, RegHolds s r b → refusalOf r b = none := by
  simp only [State.legalControls, Bool.and_eq_true, admits_iff]
  constructor
  · rintro ⟨⟨ha, hb⟩, hm⟩ r b hr
    cases r with
    | tccra => exact hr ▸ ha
    | tccrb => exact hr ▸ hb
    | timsk => exact hr ▸ hm
    | _ => rfl
  · exact fun h => ⟨⟨h .tccra _ rfl, h .tccrb _ rfl⟩, h .timsk _ rfl⟩

/-- A register other than TIFR holds one byte. -/
theorem RegHolds.unique {s : State} {r : Reg} {b b' : Byte} (hr : r ≠ .tifr)
    (h : RegHolds s r b) (h' : RegHolds s r b') : b = b' := by
  cases r with
  | tifr => exact absurd rfl hr
  | _ => exact Eq.trans h (Eq.symm h')

/-- A byte write of an admitted value leaves only admitted values. -/
theorem WroteByte.legalControls {s t : State} {r : Reg} {v : Byte} (h : WroteByte s t r v)
    (hr : refusalOf r v = none) (hs : s.legalControls = true) : t.legalControls = true := by
  refine legalControls_iff.mpr fun r' b hb => ?_
  by_cases hsame : r' = r
  · subst hsame
    by_cases htifr : r' = .tifr
    · rw [htifr]; rfl
    · rw [hb.unique htifr (h.stored htifr)]; exact hr
  · exact legalControls_iff.mp hs r' b ((h.others r' hsame b).mpr hb)

/-- An operation that completes stores no control value that is not admitted. -/
theorem exec_legalControls {i : Instr} {s t : State} (h : exec i s = .next t)
    (hs : s.legalControls = true) : t.legalControls = true := by
  rcases exec_stores h with ⟨r, v, hr, hwrote⟩ | ⟨ha, hb, hm, -⟩
  · exact hwrote.legalControls hr hs
  · simpa only [State.legalControls, ha, hb, hm] using hs

/-- After an operation that completes, the last observation shows the line. -/
theorem exec_traceShowsLine {i : Instr} {s t : State} (h : exec i s = .next t)
    (hs : s.traceShowsLine = true) : t.traceShowsLine = true := by
  have hcfg := (exec_frame h).machine.cfg
  have hkept (hport : t.port = s.port) (htrace : t.trace = s.trace) : t.traceShowsLine = true := by
    simpa only [State.traceShowsLine, hport, htrace, hcfg] using hs
  rcases exec_stores h with ⟨r, v, -, hwrote⟩ | ⟨-, -, -, hport, htrace⟩
  · by_cases hr : r = .port
    · subst hr
      have hport : v = t.port := hwrote.stored (by decide)
      simp [State.traceShowsLine, hwrote.trace, hcfg, hport]
    · exact hkept (hwrote.port_trace hr).1 (hwrote.port_trace hr).2
  · exact hkept hport htrace

/-- A context between operations has no latch to fit. -/
theorem phaseFits_first {p : Params} {c : Context} (h : c.ph = .first) : phaseFits p c = true := by
  simp [phaseFits, h]

/-- A latch fits where the word at the pc is that of the latched operation. -/
theorem phaseFits_latched {s : State} {w : Word} {i : Instr} {op : Rmw} (hf : s.fetch = some w)
    (hw : decode w = .ok i) (hi : i.rmw? = some op) (v : Byte) (d : Option U16)
    (sv : Option Bool) : phaseFits s.cfg ⟨s.cur.pc, .second op v, d, sv⟩ = true := by
  rw [State.fetch] at hf
  simp [phaseFits, hf, hw, hi]

/-- An operation that completes leaves in each record a latch that fits: of the running one it is
the operation just fetched. -/
theorem exec_phaseFits {i : Instr} {s t : State} {w : Word} (hf : s.fetch = some w)
    (hw : decode w = .ok i) (h : exec i s = .next t) {k : Ctx}
    (hs : phaseFits s.cfg (s.record k) = true) : phaseFits t.cfg (t.record k) = true := by
  have hframe := exec_frame h
  rw [hframe.machine.cfg]
  by_cases hk : s.ctx = k
  · rcases exec_cur h with ⟨hp, hc, -⟩ | ⟨op, r, v, hi, -, -, hc, hcur⟩ | ⟨rfl, -⟩
    · rw [← cur_eq_record (hc.trans hk)]
      exact phaseFits_first hp
    · rw [← cur_eq_record (hc.trans hk), hcur]
      exact phaseFits_latched hf hw hi v _ _
    · cases k <;> exact hs
  · rw [hframe.other.record_eq hk]
    exact hs

/-- An operation that completes leaves each record at most one past the last index. -/
theorem exec_record_pc_le {i : Instr} {s t : State} {w : Word} (hf : s.fetch = some w)
    (h : exec i s = .next t) {k : Ctx} (hs : (s.record k).pc.toNat ≤ 0x10000) :
    (t.record k).pc.toNat ≤ 0x10000 := by
  obtain ⟨hpc, -⟩ := wordAt_eq_some.mp hf
  by_cases hk : s.ctx = k
  · subst hk
    rw [exec_pc h]
    have hnext := pc_add_one_toNat hpc
    by_cases hp : s.cur.ph = .first
    · rw [pcAfter_first hp]
      cases i with
      | jmp target => rw [firstPhasePc, toPc_toNat]; exact target.isLt.le
      | reti | setb | clrb | tglb => exact hpc.le
      | _ => rw [firstPhasePc_counts _ (by simp [Instr.mnemonic])]; omega
    · rw [pcAfter_second hp]; omega
  · rw [(exec_frame h).other.record_eq hk]
    exact hs

/-- While the handler goes on with I = 0, nothing sets I: RETI leaves it, SEI is refused, and so is
IRST of a saved 1 (41_interrupt_control.md R121, R123). -/
theorem exec_handler_i {i : Instr} {s t : State} (h : exec i s = .next t) (hc : s.ctx = .handler)
    (hi : s.i = false) (ht : t.ctx = .handler) : t.i = false := by
  by_contra hti
  obtain ⟨hp, hmem | ⟨rfl, -⟩⟩ := (exec_frame h).i (by simpa [hi] using hti)
  · simp only [List.mem_cons, List.not_mem_nil, or_false] at hmem
    obtain rfl | rfl | rfl | rfl := hmem
    · rw [exec_cli_first hp] at h
      cases h
      simp [advance_eq] at hti
    · simp [exec_sei_handler hp hc] at h
    · rw [exec_idis_first hp] at h
      cases h
      exact hti rfl
    · cases hsv : s.cur.sv with
      | none => simp [exec_irst_unsaved hp hsv] at h
      | some b =>
        rw [exec_irst_saved hp hsv] at h
        split_ifs at h with hnest
        cases h
        exact hnest ⟨hc, by simpa [advance_eq] using hti⟩
  · rw [exec_reti_handler hp hc] at h
    cases h
    cases ht

/-- The handler is masked, as a fact about the state in which it runs. -/
theorem handlerMasked_iff {s : State} : s.handlerMasked = true ↔
    (s.ctx = .handler → s.i = false ∧ s.hdl.sv ≠ some true) := by
  cases hc : s.ctx <;> simp [State.handlerMasked, hc]

/-- An operation that completes and leaves the handler running began in the handler, and its save
bit is the one it had or I. -/
theorem exec_handler_sv {i : Instr} {s t : State} (h : exec i s = .next t)
    (ht : t.ctx = .handler) :
    s.ctx = .handler ∧ (t.hdl.sv = s.hdl.sv ∨ t.hdl.sv = some s.i) := by
  rcases exec_cur h with ⟨-, hc, hsv⟩ | ⟨op, r, v, -, -, -, hc, hcur⟩ | ⟨rfl, -⟩
  · have hs := hc ▸ ht
    rw [cur_handler ht, cur_handler hs] at hsv
    exact ⟨hs, hsv⟩
  · have hs := hc ▸ ht
    rw [cur_handler ht, cur_handler hs] at hcur
    exact ⟨hs, .inl (by rw [hcur])⟩
  · cases ht

/-- The handler stays masked: I stays 0 (`exec_handler_i`), and what an IDIS saves is that 0. -/
theorem exec_handlerMasked {i : Instr} {s t : State} (h : exec i s = .next t)
    (hs : s.handlerMasked = true) : t.handlerMasked = true := by
  refine handlerMasked_iff.mpr fun ht => ?_
  obtain ⟨hc, hsv⟩ := exec_handler_sv h ht
  obtain ⟨hi, hsv'⟩ := handlerMasked_iff.mp hs hc
  refine ⟨exec_handler_i h hc hi ht, ?_⟩
  rcases hsv with hsv | hsv <;> simp [hsv, hsv', hi]

/-! The invariant over each kind of step. -/

/-- Both program counters are in range, said of each record. -/
theorem pcsInRange_iff {s : State} :
    s.pcsInRange = true ↔ ∀ k, (s.record k).pc.toNat ≤ 0x10000 := by
  simp only [State.pcsInRange, Bool.and_eq_true, decide_eq_true_eq]
  exact ⟨fun ⟨hmain, hhdl⟩ k => by cases k <;> assumption, fun h => ⟨h .main, h .handler⟩⟩

/-- Reading the schedule keeps the invariant. -/
theorem State.Inv.takeTurn {s u : State} {who : Agent} (h : s.Inv)
    (hu : Machine.takeTurn s = (who, u)) : u.Inv := by
  obtain ⟨sc, d, rfl⟩ := takeTurn_eq hu
  exact ⟨h.controls, h.mainPhase, h.hdlPhase, h.masked, h.oneMark, h.line, h.pcs⟩

/-- A clock edge keeps the invariant, which does not speak of what an edge writes. -/
theorem State.Inv.clockEdge {s : State} (h : s.Inv) : (Machine.clockEdge s).Inv := by
  obtain ⟨c, f, hw⟩ := clockEdge_writes s
  rw [hw]
  exact ⟨h.controls, h.mainPhase, h.hdlPhase, h.masked, h.oneMark, h.line, h.pcs⟩

/-- Where nothing has stopped the CPU, neither mark is set. -/
theorem unmarked_of_not_stopped {s : State} (h : s.stopped = false) :
    s.fault = none ∧ s.refused = none := by
  simpa [State.stopped] using h

/-- The first fault keeps the invariant: no refusal is recorded beside it. -/
theorem State.Inv.raiseFault {s : State} (h : s.Inv) (hs : s.stopped = false) (code : Fault)
    (w : Option Word) : (s.raiseFault code w).Inv := by
  have hmark : (s.raiseFault code w).oneMark = true := by
    simp [State.oneMark, State.raiseFault, (unmarked_of_not_stopped hs).2]
  exact ⟨h.controls, h.mainPhase, h.hdlPhase, h.masked, hmark, h.line, h.pcs⟩

/-- The first refusal keeps the invariant: no fault is recorded beside it. -/
theorem State.Inv.markRefused {s : State} (h : s.Inv) (hs : s.stopped = false)
    (code : RefusalCode) (w : Word) : (s.markRefused code w).Inv := by
  have hmark : (s.markRefused code w).oneMark = true := by
    simp [State.oneMark, State.markRefused, (unmarked_of_not_stopped hs).1]
  exact ⟨h.controls, h.mainPhase, h.hdlPhase, h.masked, hmark, h.line, h.pcs⟩

/-- A dispatch keeps the invariant: the handler begins afresh with I = 0 (60_exceptions.md R171). -/
theorem State.Inv.dispatched {s : State} (h : s.Inv) (entry : Index) :
    State.Inv { s with hdl := Context.fresh (Index.toPc entry), i := false, ctx := .handler } where
  controls := h.controls
  mainPhase := h.mainPhase
  hdlPhase := phaseFits_first rfl
  masked := rfl
  oneMark := h.oneMark
  line := h.line
  pcs := pcsInRange_iff.mpr fun k => by
    cases k with
    | main => exact pcsInRange_iff.mp h.pcs .main
    | handler => exact (toPc_toNat entry).trans_le entry.isLt.le

/-- An operation that completes keeps the invariant, clause by clause. -/
theorem State.Inv.exec {i : Instr} {s t : State} {w : Word} (h : s.Inv) (hf : s.fetch = some w)
    (hw : decode w = .ok i) (hx : Machine.exec i s = .next t) : t.Inv where
  controls := exec_legalControls hx h.controls
  mainPhase := exec_phaseFits hf hw hx (k := .main) h.mainPhase
  hdlPhase := exec_phaseFits hf hw hx (k := .handler) h.hdlPhase
  masked := exec_handlerMasked hx h.masked
  oneMark := by
    have hmach := (exec_frame hx).machine
    rw [State.oneMark, hmach.fault, hmach.refused]
    exact h.oneMark
  line := exec_traceShowsLine hx h.line
  pcs := pcsInRange_iff.mpr fun k => exec_record_pc_le hf hx (pcsInRange_iff.mp h.pcs k)

/-- Settles O20: each of the kinds of step keeps the invariant. -/
theorem everyStepKeepsTheInvariant : Obligations.EveryStepKeepsTheInvariant := by
  intro s t hs h
  rcases hu : takeTurn s with ⟨who, u⟩
  have hi := hs.takeTurn hu
  rcases step_cases h hu with ⟨-, rfl⟩ | ⟨-, hn, -, ⟨e, -, rfl⟩ | ⟨-, rfl⟩⟩ |
    ⟨-, hn, -, ⟨-, rfl⟩ | ⟨w, hf, ⟨-, rfl⟩ | ⟨i, hw, hx | ⟨f, -, rfl⟩ | ⟨c, -, rfl⟩⟩⟩⟩
  · exact hi.clockEdge
  · exact hi.dispatched e
  · exact hi.raiseFault hn _ _
  · exact hi.raiseFault hn _ _
  · exact hi.raiseFault hn _ _
  · exact hi.exec hf hw hx
  · exact hi.raiseFault hn _ _
  · exact hi.markRefused hn _ _

/-! Reset. -/

/-- Settles O21: at reset the registers are 0, both contexts are between operations at index 0, and
nothing is marked or observed. -/
theorem invariantHoldsAtReset : Obligations.InvariantHoldsAtReset :=
  ⟨rfl, rfl, rfl, rfl, rfl, rfl, rfl⟩

/-- Settles O22: the values are those of the definition of `State.reset`; of PSC its range alone is
stated. -/
theorem resetLeavesTheseValues : Obligations.ResetLeavesTheseValues := by
  have hentry : State.reset.Entry := ⟨rfl, ⟨rfl, rfl⟩, rfl, rfl, rfl, rfl, rfl, ⟨rfl, rfl⟩⟩
  exact ⟨rfl, rfl, rfl, rfl, rfl, rfl, rfl, rfl, rfl, State.reset.psc.isLt, rfl, rfl, rfl, rfl, rfl,
    rfl, hentry⟩

end Sys2Proof.Machine

/-! SUPPORT. Noninterference of the free values (20_memory.md R63, 10_state.md R35, R45). `forget`
takes the draws, the data latches and the drawn bits of a latched TIFR byte out of a state; a step
commutes with it, so nothing else depends on them. -/

namespace Sys2Proof.Machine

/-! What is forgotten. -/

/-- A byte read from a register without the bits that are drawn: of TIFR bits 5, 2 and 0
(10_state.md R35). -/
def forgetByte (r : Option Reg) (v : Byte) : Byte := if r = some .tifr then v &&& 0xDA else v

/-- A phase latch without the drawn bits of its byte. -/
def forgetPhase (p : Params) : Phase → Phase
  | .first => .first
  | .second op v => .second op (forgetByte (p.map op.a) v)

/-- A context record without its data latch and the drawn bits of its phase latch. -/
def forgetContext (p : Params) (c : Context) : Context := ⟨c.pc, forgetPhase p c.ph, none, c.sv⟩

/-- A state without the count of draws, the data latches and the drawn bits of the phase latches. -/
def forget (s : State) : State :=
  { s with main := forgetContext s.cfg s.main, hdl := forgetContext s.cfg s.hdl, draws := 0 }

/-- What is read from a register is, without the drawn bits, the same for every draw. -/
theorem forgetByte_regByte (s : State) (d d' : BitVec 3) (r : Reg) :
    forgetByte (some r) (s.regByte d r) = forgetByte (some r) (s.regByte d' r) := by
  cases r with
  | tifr => simp only [forgetByte, if_true, State.regByte, tifrByte_fixed]
  | _ => rfl

/-- Whether a read-modify-write of TIFR clears the flag does not depend on the drawn bits it read
(40_register_access.md R104). -/
theorem apply_forget_bit1 (kind : RmwKind) (v m : Byte) :
    (kind.apply (v &&& 0xDA) m).getLsbD 1 = (kind.apply v m).getLsbD 1 := by
  cases kind <;> simp [RmwKind.apply]

/-! The updates and the forgetting. -/

@[simp] theorem forgetByte_forgetByte (r : Option Reg) (v : Byte) :
    forgetByte r (forgetByte r v) = forgetByte r v := by
  unfold forgetByte
  split
  · rw [BitVec.and_assoc, BitVec.and_self]
  · rfl

@[simp] theorem forgetPhase_forgetPhase (p : Params) (ph : Phase) :
    forgetPhase p (forgetPhase p ph) = forgetPhase p ph := by
  cases ph <;> simp [forgetPhase]

@[simp] theorem forgetContext_forgetContext (p : Params) (c : Context) :
    forgetContext p (forgetContext p c) = forgetContext p c := by
  simp [forgetContext]

section
variable (s : State)

@[simp] theorem forget_ctx : (forget s).ctx = s.ctx := rfl
@[simp] theorem forget_cfg : (forget s).cfg = s.cfg := rfl
@[simp] theorem forget_i : (forget s).i = s.i := rfl
@[simp] theorem forget_stopped : (forget s).stopped = s.stopped := rfl
@[simp] theorem forget_dispatchDue : (forget s).dispatchDue = s.dispatchDue := rfl

/-- Only the count of draws is forgotten of a read's effect. -/
@[simp] theorem forget_setDraws (n : Nat) : forget (s.setDraws n) = forget s := rfl

/-- I is not forgotten. -/
@[simp] theorem forget_setI (b : Bool) : forget (s.setI b) = (forget s).setI b := rfl

/-- There is nothing more to forget. -/
@[simp] theorem forget_forget : forget (forget s) = forget s := by
  have hmain := forgetContext_forgetContext s.cfg s.main
  have hhdl := forgetContext_forgetContext s.cfg s.hdl
  simp only [forget, hmain, hhdl]

/-- The running record is forgotten as each record is. -/
@[simp] theorem forget_cur : (forget s).cur = forgetContext s.cfg s.cur := by
  cases h : s.ctx <;> simp only [State.cur, forget_ctx, h] <;> rfl

/-- Of a running record that is written, what each record's forgetting leaves is left. -/
@[simp] theorem forget_setCur (c : Context) :
    forget (s.setCur c) = (forget s).setCur (forgetContext s.cfg c) := by
  cases h : s.ctx <;> simp only [State.setCur, forget_ctx, h] <;> rfl

/-- The completion and the forgetting are independent. -/
theorem forget_advance : forget s.advance = (forget s).advance := by
  simp [advance_eq, forgetContext, forgetPhase]

/-- The return and the forgetting are independent. -/
theorem forget_returnFromHandler :
    forget (returnFromHandler s) = returnFromHandler (forget s) := rfl

/-- The byte of a register is not forgotten. -/
@[simp] theorem forget_regByte (d : BitVec 3) (r : Reg) :
    (forget s).regByte d r = s.regByte d r := by
  cases r <;> rfl

end

/-! The operations. -/

/-- The answer of an operation, with the state it is to go on in forgotten. -/
def forgetAnswer (r : Result) : Result := thenDo r forget

theorem forgetAnswer_next (t : State) : forgetAnswer (.next t) = .next (forget t) := rfl

/-- There is nothing more to forget in an answer. -/
@[simp] theorem forgetAnswer_forgetAnswer (r : Result) :
    forgetAnswer (forgetAnswer r) = forgetAnswer r := by
  cases r with
  | next t => exact congrArg Host.Outcome.next (forget_forget t)
  | _ => rfl

/-- The completion may come before or after the forgetting. -/
theorem forgetAnswer_advance (r : Result) :
    forgetAnswer (thenDo r State.advance) = thenDo (forgetAnswer r) State.advance := by
  cases r with
  | next t => exact congrArg Host.Outcome.next (forget_advance t)
  | _ => rfl

/-- A register takes the same values in the forgotten state, and stores them alike. -/
theorem writeReg_forget (s : State) (r : Reg) (v : Byte) :
    (forget s).writeReg r v = (s.writeReg r v).map forget := by
  cases r <;> simp only [State.writeReg]
  case tccra | tccrb | timsk => split <;> rfl
  all_goals rfl

/-- A byte write is the same in the forgotten state. -/
theorem regWrite8_forget (a : Addr) (v : Byte) (s : State) :
    regWrite8 a v (forget s) = forgetAnswer (regWrite8 a v s) := by
  unfold regWrite8
  rw [forget_cfg]
  cases s.cfg.map a with
  | none => rfl
  | some r =>
    simp only [writeReg_forget]
    cases s.writeReg r v <;> rfl

/-- A read-modify-write writes the same whatever the drawn bits were. -/
theorem regWrite8_forgetByte (op : Rmw) (v : Byte) (s : State) :
    regWrite8 op.a (op.kind.apply (forgetByte (s.cfg.map op.a) v) op.m) s =
      regWrite8 op.a (op.kind.apply v op.m) s := by
  by_cases hm : s.cfg.map op.a = some .tifr
  · simp only [regWrite8, hm, State.writeReg, ocfaAfterWrite, forgetByte, if_true,
      apply_forget_bit1]
  · rw [forgetByte, if_neg hm]

/-- A word is read alike in the forgotten state. -/
theorem regRead16_forget (a : Addr) (s : State) : regRead16 a (forget s) = regRead16 a s := by
  rw [regRead16_eq, regRead16_eq]
  rfl

/-- A word write is the same in the forgotten state. -/
theorem regWrite16_forget (a : Addr) (v : U16) (s : State) :
    regWrite16 a v (forget s) = forgetAnswer (regWrite16 a v s) := by
  unfold regWrite16
  rw [forget_cfg]
  cases s.cfg.wordMap a with
  | none => rfl
  | some w => cases w <;> rfl

/-- The second phase of a read-modify-write does not depend on what is forgotten. -/
theorem writePhase_forget (op : Rmw) (v : Byte) (s : State) :
    writePhase op (forgetByte (s.cfg.map op.a) v) (forget s) =
      forgetAnswer (writePhase op v s) := by
  rw [writePhase, regWrite8_forget, regWrite8_forgetByte, ← forgetAnswer_advance]
  rfl

/-- The first phase of a read-modify-write does not depend on what is forgotten: what it latches is
the byte of the register, drawn bits aside (20_memory.md R63). -/
theorem readPhase_forget (op : Rmw) (s : State) :
    forgetAnswer (readPhase op (forget s)) = forgetAnswer (readPhase op s) := by
  rw [readPhase_eq, readPhase_eq, forget_cfg]
  cases hm : s.cfg.map op.a with
  | none => rfl
  | some r =>
    simp only [forgetAnswer_next, forget_setCur, forget_setDraws, forget_forget, forget_cur,
      forget_regByte, setDraws_cfg, forget_cfg, forgetContext, forgetPhase, hm]
    rw [forgetByte_regByte s _ (Config.freeTifr s.draws)]

/-- A first phase does not depend on what is forgotten. -/
theorem exec_first_forget (i : Instr) {s : State} (hp : s.cur.ph = .first) :
    forgetAnswer (exec i (forget s)) = forgetAnswer (exec i s) := by
  have hp' : (forget s).cur.ph = .first := by simp [forgetContext, forgetPhase, hp]
  cases i with
  | wr8 a v =>
    rw [exec_wr8_first hp, exec_wr8_first hp', regWrite8_forget, ← forgetAnswer_advance,
      forgetAnswer_forgetAnswer]
  | wr16 a v =>
    simp only [exec, execWr16, inPhase_first hp, inPhase_first hp', regWrite16_forget,
      ← forgetAnswer_advance, forgetAnswer_forgetAnswer]
  | rd8 a =>
    simp only [exec, execRd8, inPhase_first hp, inPhase_first hp', regRead8_eq, forget_cfg]
    cases s.cfg.map a with
    | none => rfl
    | some r =>
      simp [forgetAnswer_next, latch_eq, advance_eq, forgetContext]
  | rd16 a =>
    simp only [exec, execRd16, inPhase_first hp, inPhase_first hp', regRead16_forget]
    cases regRead16 a s with
    | error e => rfl
    | ok v => simp [forgetAnswer_next, latch_eq, advance_eq, forgetContext]
  | setb | clrb | tglb =>
    rw [exec_rmw_first hp rfl, exec_rmw_first hp' rfl]
    exact readPhase_forget _ s
  | cli =>
    rw [exec_cli_first hp, exec_cli_first hp']
    simp [forgetAnswer_next, forget_advance]
  | sei =>
    cases hc : s.ctx with
    | main =>
      rw [exec_sei_main hp hc, exec_sei_main hp' hc]
      simp [forgetAnswer_next, forget_advance]
    | handler => rw [exec_sei_handler hp hc, exec_sei_handler hp' hc]
  | idis =>
    simp only [exec, execIdis, inPhase_first hp, inPhase_first hp']
    simp [forgetAnswer_next, forget_advance, State.onCur, forgetContext]
  | irst =>
    cases hsv : s.cur.sv with
    | none =>
      rw [exec_irst_unsaved hp hsv, exec_irst_unsaved hp' (by simpa [forgetContext] using hsv)]
    | some b =>
      rw [exec_irst_saved hp hsv, exec_irst_saved hp' (by simpa [forgetContext] using hsv),
        forget_ctx]
      split
      · rfl
      · simp [forgetAnswer_next, forget_advance]
  | reti =>
    cases hc : s.ctx with
    | main => rw [exec_reti_main hp hc, exec_reti_main hp' hc]
    | handler =>
      rw [exec_reti_handler hp hc, exec_reti_handler hp' hc]
      rw [forgetAnswer_next, forgetAnswer_next, forget_returnFromHandler, forget_forget,
        ← forget_returnFromHandler]
  | jmp target =>
    rw [exec_jmp_first target hp, exec_jmp_first target hp']
    simp [forgetAnswer_next, forgetContext]

/-- No operation depends on what is forgotten. -/
theorem exec_forget (i : Instr) (s : State) :
    forgetAnswer (exec i (forget s)) = forgetAnswer (exec i s) := by
  cases hp : s.cur.ph with
  | first => exact exec_first_forget i hp
  | second op v =>
    have hp' : (forget s).cur.ph = .second op (forgetByte (s.cfg.map op.a) v) := by
      simp [forgetContext, forgetPhase, hp]
    rw [exec_second hp, exec_second hp', writePhase_forget, forgetAnswer_forgetAnswer]

/-! The agents. -/

/-- The record of a fault names the context and the pc, which are not forgotten. -/
theorem raiseFault_forget (s : State) (code : Fault) (w : Option Word) :
    forgetAnswer (.next ((forget s).raiseFault code w)) =
      forgetAnswer (.next (s.raiseFault code w)) := by
  have hset (t : State) (f : Option FaultRecord) : forget (t.setFault f) = (forget t).setFault f :=
    rfl
  simp [forgetAnswer_next, State.raiseFault, hset, forgetContext]

/-- The record of a refusal names the context and the pc, which are not forgotten. -/
theorem markRefused_forget (s : State) (code : RefusalCode) (w : Word) :
    forgetAnswer (.next ((forget s).markRefused code w)) =
      forgetAnswer (.next (s.markRefused code w)) := by
  have hset (t : State) (f : Option RefusalRecord) :
      forget (t.setRefused f) = (forget t).setRefused f := rfl
  simp [forgetAnswer_next, State.markRefused, hset, forgetContext]

/-- What is settled depends on the answer without what is forgotten. -/
theorem settle_forgetAnswer (w : Word) (s : State) (r : Result) :
    forgetAnswer (settle w s (forgetAnswer r)) = forgetAnswer (settle w s r) := by
  cases r with
  | next t => exact forgetAnswer_forgetAnswer (.next t)
  | _ => rfl

/-- What is settled does not depend on what is forgotten of the state before. -/
theorem settle_forget (w : Word) (s : State) (r : Result) :
    forgetAnswer (settle w (forget s) r) = forgetAnswer (settle w s r) := by
  cases r with
  | next t => rfl
  | fault code => exact raiseFault_forget s code (some w)
  | refused e =>
    cases e with
    | refuse code => exact markRefused_forget s code w
    | notModelled m => rfl

/-- An operation phase does not depend on what is forgotten: it fetches at the same pc. -/
theorem cpuPhase_forget (s : State) :
    forgetAnswer (cpuPhase (forget s)) = forgetAnswer (cpuPhase s) := by
  have hfetch : (forget s).fetch = s.fetch := by simp [State.fetch, forgetContext]
  cases hf : s.fetch with
  | none =>
    rw [cpuPhase_of_no_word hf, cpuPhase_of_no_word (hfetch.trans hf)]
    exact raiseFault_forget s _ _
  | some w =>
    cases hw : decode w with
    | error r =>
      rw [cpuPhase_of_illegal hf hw, cpuPhase_of_illegal (hfetch.trans hf) hw]
      exact raiseFault_forget s _ _
    | ok i =>
      rw [cpuPhase_of_decode hf hw, cpuPhase_of_decode (hfetch.trans hf) hw]
      rw [settle_forget, ← settle_forgetAnswer, exec_forget, settle_forgetAnswer]

/-- A dispatch does not depend on what is forgotten: it begins the handler's record afresh. -/
theorem dispatchStep_forget (s : State) :
    forgetAnswer (dispatchStep (forget s)) = forgetAnswer (dispatchStep s) := by
  cases he : s.cfg.handlerEntry with
  | none =>
    rw [dispatchStep_of_unbound he, dispatchStep_of_unbound (t := forget s) he]
    exact raiseFault_forget s _ _
  | some entry =>
    rw [dispatchStep_of_bound he, dispatchStep_of_bound (t := forget s) he]
    simp [forgetAnswer_next, forget]

/-- A tick reads and writes nothing that is forgotten. -/
theorem forget_tick (s : State) : forget (tick s) = tick (forget s) := by
  have hm : (forget s).matches = s.matches := rfl
  have hc : (forget s).ctc = s.ctc := rfl
  unfold tick
  rw [hm, hc]
  split_ifs <;> rfl

/-- An edge reads and writes nothing that is forgotten. -/
theorem forget_clockEdge (s : State) : forget (clockEdge s) = clockEdge (forget s) := by
  have ht : (forget s).edgeTicks = s.edgeTicks := rfl
  unfold clockEdge
  rw [ht]
  split_ifs
  · exact forget_tick _
  · rfl

/-- An edge is the same once forgotten. -/
theorem clockEdge_forget (s : State) :
    forgetAnswer (.next (clockEdge (forget s))) = forgetAnswer (.next (clockEdge s)) := by
  rw [forgetAnswer_next, forgetAnswer_next, forget_clockEdge, forget_clockEdge, forget_forget]

/-- No step of an agent depends on what is forgotten. -/
theorem agentStep_forget (who : Agent) (s : State) :
    forgetAnswer (agentStep who (forget s)) = forgetAnswer (agentStep who s) := by
  cases who with
  | clock => exact clockEdge_forget s
  | cpu =>
    unfold agentStep cpuStep
    rw [forget_stopped, forget_dispatchDue]
    split_ifs
    · exact clockEdge_forget s
    · exact dispatchStep_forget s
    · exact cpuPhase_forget s

/-! The relation of the statement. -/

/-- Two context records differ only in the data latch and the drawn bits of a latched TIFR byte. -/
def LatchSame (p : Params) (x y : Context) : Prop :=
  x.pc = y.pc ∧ x.sv = y.sv ∧
    (x.ph = y.ph ∨ ∃ op v v', x.ph = .second op v ∧ y.ph = .second op v' ∧
      p.map op.a = some .tifr ∧ v &&& 0xDA = v' &&& 0xDA)

/-- Two phases are the same once forgotten exactly when they are the same, or latch one operation at
TIFR with bytes that differ only in the drawn bits. -/
theorem forgetPhase_eq_iff {p : Params} {x y : Phase} : forgetPhase p x = forgetPhase p y ↔
    x = y ∨ ∃ op v v', x = .second op v ∧ y = .second op v' ∧
      p.map op.a = some .tifr ∧ v &&& 0xDA = v' &&& 0xDA := by
  constructor
  · intro h
    cases x with
    | first => cases y with
      | first => exact .inl rfl
      | second => cases h
    | second op v => cases y with
      | first => cases h
      | second op' v' =>
        obtain ⟨rfl, hv⟩ : op = op' ∧ _ := by simpa only [forgetPhase, Phase.second.injEq] using h
        by_cases hm : p.map op.a = some .tifr
        · simp only [forgetByte, hm, if_true] at hv
          exact .inr ⟨op, v, v', rfl, rfl, hm, hv⟩
        · simp only [forgetByte, hm, if_false] at hv
          exact .inl (hv ▸ rfl)
  · rintro (rfl | ⟨op, v, v', rfl, rfl, hm, hv⟩)
    · rfl
    · simp only [forgetPhase, forgetByte, hm, if_true, hv]

/-- Two records are the same once forgotten exactly when they differ only in what is forgotten. -/
theorem forgetContext_eq_iff {p : Params} {x y : Context} :
    forgetContext p x = forgetContext p y ↔ LatchSame p x y := by
  simp only [forgetContext, Context.mk.injEq, true_and, LatchSame, forgetPhase_eq_iff]
  tauto

/-- Two states differ only in the draws, the data latches and the drawn bits of a latched TIFR
byte. -/
def SameButDraws (s t : State) : Prop :=
  SameRegisters s t ∧ SameMachine s t ∧ t.i = s.i ∧ t.ctx = s.ctx ∧
    LatchSame s.cfg s.main t.main ∧ LatchSame s.cfg s.hdl t.hdl

/-- Two states are the same once forgotten exactly when they differ only in what is forgotten. -/
theorem forget_eq_iff {s t : State} : forget s = forget t ↔ SameButDraws s t := by
  simp only [SameButDraws, ← forgetContext_eq_iff]
  constructor
  · intro h
    have hfield {α : Type} (f : State → α) : f (forget t) = f (forget s) := congrArg f h.symm
    have hcfg : t.cfg = s.cfg := hfield State.cfg
    have hmain : forgetContext s.cfg s.main = forgetContext t.cfg t.main := (hfield State.main).symm
    have hhdl : forgetContext s.cfg s.hdl = forgetContext t.cfg t.hdl := (hfield State.hdl).symm
    rw [hcfg] at hmain hhdl
    exact ⟨⟨hfield State.tcnt, hfield State.ocr, hfield State.tccra, hfield State.tccrb,
        hfield State.timsk, hfield State.ocfa, hfield State.ddr, hfield State.port,
        hfield State.trace⟩,
      ⟨hfield State.psc, hfield State.fault, hfield State.refused, hcfg, hfield State.sched⟩,
      hfield State.i, hfield State.ctx, hmain, hhdl⟩
  · rintro ⟨hregs, hmach, hi, hctx, hmain, hhdl⟩
    simp only [forget, hregs.tcnt, hregs.ocr, hregs.tccra, hregs.tccrb, hregs.timsk,
      hregs.ocfa, hregs.ddr, hregs.port, hregs.trace, hmach.psc, hmach.fault, hmach.refused,
      hmach.cfg, hmach.sched, hi, hctx, hmain, hhdl]

/-- Settles O23: states that are the same once forgotten (`forget_eq_iff`) step to such states
(`agentStep_forget`). -/
theorem drawnBitsReachNoOtherState : Obligations.DrawnBitsReachNoOtherState := by
  intro who s t s' hsame h
  have hforget : forget s = forget t := forget_eq_iff.mpr hsame
  have hstep : forgetAnswer (agentStep who t) = .next (forget s') := by
    rw [← agentStep_forget, ← hforget, agentStep_forget, h, forgetAnswer_next]
  obtain ⟨t', ht', hs'⟩ := thenDo_next_iff.mp hstep
  exact ⟨t', ht', forget_eq_iff.mp hs'⟩

end Sys2Proof.Machine
